-- ==== Sys2Proof/Word.lean ====
section
/-! DEFINITION. The scalar types of LFS-CORE and their bounds (00_scope.md R9, R11). -/

namespace Sys2Proof

/-- One byte of a buffer. -/
abbrev Byte := BitVec 8

/-- An unsigned 64-bit scalar, `u64`. -/
abbrev U64 := BitVec 64

/-- A signed 64-bit scalar, `i64`, as its two's-complement bits; `BitVec.toInt` is `sint64` (00_scope.md R13). -/
abbrev I64 := BitVec 64

/-- An unsigned 32-bit scalar, `u32`. -/
abbrev U32 := BitVec 32

/-- `U64_MAX` (00_scope.md R11). -/
abbrev u64Max : Nat := 18446744073709551615

/-- `I64_MAX` (00_scope.md R11). -/
abbrev i64Max : Int := 9223372036854775807

/-- `I64_MIN` (00_scope.md R11). -/
abbrev i64Min : Int := -9223372036854775808

/-- The 64-bit word of all ones, `U64_MAX` as bits. -/
abbrev u64Ones : U64 := 0xFFFFFFFFFFFFFFFF#64

/-- `CMD_CAP`: capacity of the command buffer in bytes (00_scope.md R10, 10_state.md R22). -/
abbrev cmdCap : Nat := 260

/-- `RSP_CAP`: capacity of the response buffer in bytes (00_scope.md R10, 10_state.md R23). -/
abbrev rspCap : Nat := 96

end Sys2Proof
end

