-- ==== Sys2Proof/Syntax.lean ====
section
/-! DEFINITION. The commands of LFS-CORE as syntax: one constructor of `Instr` per row of
`spec/opcode_table.json` (30_encoding.md R70), with typed operands, and `Op`, the bare names of the rows. -/

namespace Sys2Proof

/-- A curve point (45_elliptic_curve.md R221): the identity, or an affine pair of raw `u64` coordinates. -/
inductive Point where
  | infinity
  | coord (x y : U64)
deriving DecidableEq, Repr

/-- The 43 operations of the selector map by name (30_encoding.md R70). -/
inductive Op where
  | modexp | square | sqrt | mul | div | lerp | sin | cos
  | sqdist | dist | dot | mag | cross | clamp | clampmag | inrect
  | incirc | vadd | vsub | vscale | vnorm | vrot | vrefl | intri
  | modinv | isprime | gcd | lcm | fact | nck | log2 | log10
  | popcnt | bitrev | phi | rotl | rotr | cteq | clmul | rng
  | padd | pdbl | proj
deriving DecidableEq, Repr

/-- A command with its operands decoded: `U64` where the `types` column of 30_encoding.md R70 says `u`, `I64` where it
says `s`, `U32` where it says `w`, and a `Point` for two consecutive words that stand for a curve point (R68). -/
inductive Instr where
  | modexp (base exp modulus : U64)
  | square (n : U64)
  | sqrt (n : U64)
  | mul (a b : U64)
  | div (a b : U64)
  | lerp (start stop t : U64)
  | sin (angle : U64)
  | cos (angle : U64)
  | sqdist (x1 y1 x2 y2 : U64)
  | dist (x1 y1 x2 y2 : U64)
  | dot (aX aY bX bY : I64)
  | mag (x y : I64)
  | cross (aX aY bX bY : I64)
  | clamp (v min max : U64)
  | clampmag (x y : I64) (max : U64)
  | inrect (px py minX minY maxX maxY : U64)
  | incirc (px py cx cy r : U64)
  | vadd (aX aY bX bY : I64)
  | vsub (aX aY bX bY : I64)
  | vscale (x y k : I64)
  | vnorm (x y : I64)
  | vrot (x y : I64) (angle : U64)
  | vrefl (vx vy nx ny : I64)
  | intri (px py aX aY bX bY cX cY : U64)
  | modinv (a modulus : U64)
  | isprime (n : U64)
  | gcd (a b : U64)
  | lcm (a b : U64)
  | fact (n : U64)
  | nck (n k : U64)
  | log2 (n : U64)
  | log10 (n : U64)
  | popcnt (n : U64)
  | bitrev (n : U64)
  | phi (n : U64)
  | rotl (x : U64) (n : U32)
  | rotr (x : U64) (n : U32)
  | cteq (a b : U64)
  | clmul (a b : U64)
  | rng (seed : U64)
  | padd (p q : Point) (a modulus : U64)
  | pdbl (p : Point) (a modulus : U64)
  | proj (angle : U64) (v0 gravity : I64)
deriving DecidableEq, Repr

/-- The row an instruction belongs to. -/
def Instr.op : Instr → Op
  | .modexp _ _ _ => .modexp
  | .square _ => .square
  | .sqrt _ => .sqrt
  | .mul _ _ => .mul
  | .div _ _ => .div
  | .lerp _ _ _ => .lerp
  | .sin _ => .sin
  | .cos _ => .cos
  | .sqdist _ _ _ _ => .sqdist
  | .dist _ _ _ _ => .dist
  | .dot _ _ _ _ => .dot
  | .mag _ _ => .mag
  | .cross _ _ _ _ => .cross
  | .clamp _ _ _ => .clamp
  | .clampmag _ _ _ => .clampmag
  | .inrect _ _ _ _ _ _ => .inrect
  | .incirc _ _ _ _ _ => .incirc
  | .vadd _ _ _ _ => .vadd
  | .vsub _ _ _ _ => .vsub
  | .vscale _ _ _ => .vscale
  | .vnorm _ _ => .vnorm
  | .vrot _ _ _ => .vrot
  | .vrefl _ _ _ _ => .vrefl
  | .intri _ _ _ _ _ _ _ _ => .intri
  | .modinv _ _ => .modinv
  | .isprime _ => .isprime
  | .gcd _ _ => .gcd
  | .lcm _ _ => .lcm
  | .fact _ => .fact
  | .nck _ _ => .nck
  | .log2 _ => .log2
  | .log10 _ => .log10
  | .popcnt _ => .popcnt
  | .bitrev _ => .bitrev
  | .phi _ => .phi
  | .rotl _ _ => .rotl
  | .rotr _ _ => .rotr
  | .cteq _ _ => .cteq
  | .clmul _ _ => .clmul
  | .rng _ => .rng
  | .padd _ _ _ _ => .padd
  | .pdbl _ _ _ => .pdbl
  | .proj _ _ _ => .proj

end Sys2Proof
end

