-- ==== Sys2Proof/WellFormed.lean ====
section
/-! DEFINITION. Well-formed instructions: those that some command bytes stand for. Every bit vector operand has
an encoding, so the one thing to check is a curve point: the finite pair of two all-ones words is read as `Infinity`
(30_encoding.md R68, R77), so no command carries it as a finite point. -/

namespace Sys2Proof

/-- A point that a pair of argument words can carry (30_encoding.md R68, R77). -/
def Point.wellFormed : Point → Bool
  | .infinity => true
  | .coord x y => !(x == u64Ones && y == u64Ones)

/-- An instruction whose operands all have an encoding. -/
def Instr.wellFormed : Instr → Bool
  | .modexp _ _ _ => true
  | .square _ => true
  | .sqrt _ => true
  | .mul _ _ => true
  | .div _ _ => true
  | .lerp _ _ _ => true
  | .sin _ => true
  | .cos _ => true
  | .sqdist _ _ _ _ => true
  | .dist _ _ _ _ => true
  | .dot _ _ _ _ => true
  | .mag _ _ => true
  | .cross _ _ _ _ => true
  | .clamp _ _ _ => true
  | .clampmag _ _ _ => true
  | .inrect _ _ _ _ _ _ => true
  | .incirc _ _ _ _ _ => true
  | .vadd _ _ _ _ => true
  | .vsub _ _ _ _ => true
  | .vscale _ _ _ => true
  | .vnorm _ _ => true
  | .vrot _ _ _ => true
  | .vrefl _ _ _ _ => true
  | .intri _ _ _ _ _ _ _ _ => true
  | .modinv _ _ => true
  | .isprime _ => true
  | .gcd _ _ => true
  | .lcm _ _ => true
  | .fact _ => true
  | .nck _ _ => true
  | .log2 _ => true
  | .log10 _ => true
  | .popcnt _ => true
  | .bitrev _ => true
  | .phi _ => true
  | .rotl _ _ => true
  | .rotr _ _ => true
  | .cteq _ _ => true
  | .clmul _ _ => true
  | .rng _ => true
  | .padd p q _ _ => p.wellFormed && q.wellFormed
  | .pdbl p _ _ => p.wellFormed
  | .proj _ _ _ => true

end Sys2Proof
end

