-- ==== Sys2Proof/Decode.lean ====
section
/-! DEFINITION. The word codec and the decoder (30_encoding.md): bytes to numbers and back, the selector map, the
argument views, decoding of any bytes at all, and the encoder. -/

namespace Sys2Proof

/-- The big-endian number a list of bytes stands for (20_memory.md R43). -/
def beNat (bs : List Byte) : Nat :=
  bs.foldl (fun acc b => acc * 256 + b.toNat) 0

/-- The low `n` bytes of `v`, most significant first (20_memory.md R43). -/
def beBytes : Nat → Nat → List Byte
  | 0, _ => []
  | n + 1, v => BitVec.ofNat 8 (v / 256 ^ n) :: beBytes n v

/-- `MemRead(CMD, off, n)` on the latched bytes, as a number (00_scope.md R16). -/
def memRead (bs : List Byte) (off n : Nat) : Nat :=
  beNat ((bs.drop off).take n)

/-- One 32-byte word with a 64-bit payload: 24 zero bytes, then the payload (30_encoding.md R61, R66, R74). -/
def abiWord (w : U64) : List Byte :=
  List.replicate 24 0 ++ beBytes 8 w.toNat

/-- `A[i]`: bytes 24 to 31 of argument word `i` (30_encoding.md R63). -/
def argU64 (bs : List Byte) (i : Nat) : U64 :=
  BitVec.ofNat 64 (memRead bs (4 + 32 * i + 24) 8)

/-- `SA[i]` before its reading as a signed number: the same eight bytes (30_encoding.md R63). -/
def argI64 (bs : List Byte) (i : Nat) : I64 :=
  BitVec.ofNat 64 (memRead bs (4 + 32 * i + 24) 8)

/-- `A32[i]`: bytes 28 to 31 of argument word `i` (30_encoding.md R63). -/
def argU32 (bs : List Byte) (i : Nat) : U32 :=
  BitVec.ofNat 32 (memRead bs (4 + 32 * i + 28) 4)

/-- The point that two argument words stand for (30_encoding.md R68, 45_elliptic_curve.md R221). -/
def pointOfWords (x y : U64) : Point :=
  if x = u64Ones ∧ y = u64Ones then .infinity else .coord x y

/-- A point argument: argument words `i` and `i + 1`, no presence word (30_encoding.md R68). -/
def argPoint (bs : List Byte) (i : Nat) : Point :=
  pointOfWords (argU64 bs i) (argU64 bs (i + 1))

/-- The two words that stand for a point (30_encoding.md R68, R74). -/
def Point.words : Point → List U64
  | .infinity => [u64Ones, u64Ones]
  | .coord x y => [x, y]

/-- All operations, in the order of 30_encoding.md R70. -/
def Op.all : List Op :=
  [.modexp, .square, .sqrt, .mul, .div, .lerp, .sin, .cos,
   .sqdist, .dist, .dot, .mag, .cross, .clamp, .clampmag, .inrect,
   .incirc, .vadd, .vsub, .vscale, .vnorm, .vrot, .vrefl, .intri,
   .modinv, .isprime, .gcd, .lcm, .fact, .nck, .log2, .log10,
   .popcnt, .bitrev, .phi, .rotl, .rotr, .cteq, .clmul, .rng,
   .padd, .pdbl, .proj]

/-- The selector of each operation (30_encoding.md R70; decision D11): the ONE place the numbers stand. -/
def Op.selector : Op → Nat
  | .modexp => 0x01
  | .square => 0x02
  | .sqrt => 0x03
  | .mul => 0x04
  | .div => 0x05
  | .lerp => 0x06
  | .sin => 0x07
  | .cos => 0x08
  | .sqdist => 0x09
  | .dist => 0x0A
  | .dot => 0x0B
  | .mag => 0x0C
  | .cross => 0x0D
  | .clamp => 0x0E
  | .clampmag => 0x0F
  | .inrect => 0x10
  | .incirc => 0x11
  | .vadd => 0x12
  | .vsub => 0x13
  | .vscale => 0x14
  | .vnorm => 0x15
  | .vrot => 0x16
  | .vrefl => 0x17
  | .intri => 0x18
  | .modinv => 0x19
  | .isprime => 0x1A
  | .gcd => 0x1B
  | .lcm => 0x1C
  | .fact => 0x1D
  | .nck => 0x1E
  | .log2 => 0x1F
  | .log10 => 0x20
  | .popcnt => 0x21
  | .bitrev => 0x22
  | .phi => 0x23
  | .rotl => 0x24
  | .rotr => 0x25
  | .cteq => 0x26
  | .clmul => 0x27
  | .rng => 0x28
  | .padd => 0x29
  | .pdbl => 0x2A
  | .proj => 0x2B

/-- How many argument words each operation reads (30_encoding.md R70). -/
def Op.arity : Op → Nat
  | .square | .sqrt | .sin | .cos | .isprime | .fact | .log2 | .log10 | .popcnt | .bitrev
  | .phi | .rng => 1
  | .mul | .div | .mag | .vnorm | .modinv | .gcd | .lcm | .nck | .rotl | .rotr
  | .cteq | .clmul => 2
  | .modexp | .lerp | .clamp | .clampmag | .vscale | .vrot | .proj => 3
  | .sqdist | .dist | .dot | .cross | .vadd | .vsub | .vrefl | .pdbl => 4
  | .incirc => 5
  | .inrect | .padd => 6
  | .intri => 8

/-- How many result words each operation writes (30_encoding.md R70, R76). -/
def Op.resultWords : Op → Nat
  | .modexp | .square | .sqrt | .mul | .div | .lerp | .sin | .cos | .sqdist | .dist
  | .dot | .mag | .cross | .clamp | .inrect | .incirc | .intri | .isprime | .gcd | .lcm
  | .nck | .popcnt | .bitrev | .phi | .rotl | .rotr | .cteq | .rng => 1
  | .clampmag | .vadd | .vsub | .vscale | .vnorm | .vrot | .vrefl | .modinv | .fact | .log2
  | .log10 | .clmul | .proj => 2
  | .padd | .pdbl => 3

/-- The operation a selector names; all 32 bits are significant (30_encoding.md R62, R71). -/
def Op.ofSelector (sel : Nat) : Option Op :=
  Op.all.find? (fun o => o.selector == sel)

/-- The instruction of an operation with its operands read from the command's bytes (30_encoding.md R63, R70). -/
def Op.build (bs : List Byte) : Op → Instr
  | .modexp => .modexp (argU64 bs 0) (argU64 bs 1) (argU64 bs 2)
  | .square => .square (argU64 bs 0)
  | .sqrt => .sqrt (argU64 bs 0)
  | .mul => .mul (argU64 bs 0) (argU64 bs 1)
  | .div => .div (argU64 bs 0) (argU64 bs 1)
  | .lerp => .lerp (argU64 bs 0) (argU64 bs 1) (argU64 bs 2)
  | .sin => .sin (argU64 bs 0)
  | .cos => .cos (argU64 bs 0)
  | .sqdist => .sqdist (argU64 bs 0) (argU64 bs 1) (argU64 bs 2) (argU64 bs 3)
  | .dist => .dist (argU64 bs 0) (argU64 bs 1) (argU64 bs 2) (argU64 bs 3)
  | .dot => .dot (argI64 bs 0) (argI64 bs 1) (argI64 bs 2) (argI64 bs 3)
  | .mag => .mag (argI64 bs 0) (argI64 bs 1)
  | .cross => .cross (argI64 bs 0) (argI64 bs 1) (argI64 bs 2) (argI64 bs 3)
  | .clamp => .clamp (argU64 bs 0) (argU64 bs 1) (argU64 bs 2)
  | .clampmag => .clampmag (argI64 bs 0) (argI64 bs 1) (argU64 bs 2)
  | .inrect => .inrect (argU64 bs 0) (argU64 bs 1) (argU64 bs 2) (argU64 bs 3) (argU64 bs 4) (argU64 bs 5)
  | .incirc => .incirc (argU64 bs 0) (argU64 bs 1) (argU64 bs 2) (argU64 bs 3) (argU64 bs 4)
  | .vadd => .vadd (argI64 bs 0) (argI64 bs 1) (argI64 bs 2) (argI64 bs 3)
  | .vsub => .vsub (argI64 bs 0) (argI64 bs 1) (argI64 bs 2) (argI64 bs 3)
  | .vscale => .vscale (argI64 bs 0) (argI64 bs 1) (argI64 bs 2)
  | .vnorm => .vnorm (argI64 bs 0) (argI64 bs 1)
  | .vrot => .vrot (argI64 bs 0) (argI64 bs 1) (argU64 bs 2)
  | .vrefl => .vrefl (argI64 bs 0) (argI64 bs 1) (argI64 bs 2) (argI64 bs 3)
  | .intri => .intri (argU64 bs 0) (argU64 bs 1) (argU64 bs 2) (argU64 bs 3) (argU64 bs 4) (argU64 bs 5) (argU64 bs 6) (argU64 bs 7)
  | .modinv => .modinv (argU64 bs 0) (argU64 bs 1)
  | .isprime => .isprime (argU64 bs 0)
  | .gcd => .gcd (argU64 bs 0) (argU64 bs 1)
  | .lcm => .lcm (argU64 bs 0) (argU64 bs 1)
  | .fact => .fact (argU64 bs 0)
  | .nck => .nck (argU64 bs 0) (argU64 bs 1)
  | .log2 => .log2 (argU64 bs 0)
  | .log10 => .log10 (argU64 bs 0)
  | .popcnt => .popcnt (argU64 bs 0)
  | .bitrev => .bitrev (argU64 bs 0)
  | .phi => .phi (argU64 bs 0)
  | .rotl => .rotl (argU64 bs 0) (argU32 bs 1)
  | .rotr => .rotr (argU64 bs 0) (argU32 bs 1)
  | .cteq => .cteq (argU64 bs 0) (argU64 bs 1)
  | .clmul => .clmul (argU64 bs 0) (argU64 bs 1)
  | .rng => .rng (argU64 bs 0)
  | .padd => .padd (argPoint bs 0) (argPoint bs 2) (argU64 bs 4) (argU64 bs 5)
  | .pdbl => .pdbl (argPoint bs 0) (argU64 bs 2) (argU64 bs 3)
  | .proj => .proj (argU64 bs 0) (argI64 bs 1) (argI64 bs 2)

/-- What the bytes of a latched command are: an instruction, or one of the two rejections by name. -/
inductive Decoded where
  /-- A known selector with enough bytes. -/
  | instr (i : Instr)
  /-- A selector outside the map: not an operation, the default response answers (30_encoding.md R71). -/
  | unknownSelector (sel : Nat)
  /-- Too few bytes (30_encoding.md R64): the machine takes the fault `SHORT_COMMAND`. -/
  | shortCommand
deriving DecidableEq, Repr

/-- The decoder, total on any bytes, with the tests in the order of 30_encoding.md R69. -/
def decode (bs : List Byte) : Decoded :=
  if bs.length < 4 then .shortCommand
  else
    match Op.ofSelector (memRead bs 0 4) with
    | none => .unknownSelector (memRead bs 0 4)
    | some op => if bs.length < 4 + 32 * op.arity then .shortCommand else .instr (op.build bs)

/-- The argument words of an instruction in word order, each as its 64-bit payload; a `u32` operand is
zero-filled (30_encoding.md R61, R74). -/
def Instr.args : Instr → List U64
  | .modexp base exp modulus => [base, exp, modulus]
  | .square n => [n]
  | .sqrt n => [n]
  | .mul a b => [a, b]
  | .div a b => [a, b]
  | .lerp start stop t => [start, stop, t]
  | .sin angle => [angle]
  | .cos angle => [angle]
  | .sqdist x1 y1 x2 y2 => [x1, y1, x2, y2]
  | .dist x1 y1 x2 y2 => [x1, y1, x2, y2]
  | .dot aX aY bX bY => [aX, aY, bX, bY]
  | .mag x y => [x, y]
  | .cross aX aY bX bY => [aX, aY, bX, bY]
  | .clamp v min max => [v, min, max]
  | .clampmag x y max => [x, y, max]
  | .inrect px py minX minY maxX maxY => [px, py, minX, minY, maxX, maxY]
  | .incirc px py cx cy r => [px, py, cx, cy, r]
  | .vadd aX aY bX bY => [aX, aY, bX, bY]
  | .vsub aX aY bX bY => [aX, aY, bX, bY]
  | .vscale x y k => [x, y, k]
  | .vnorm x y => [x, y]
  | .vrot x y angle => [x, y, angle]
  | .vrefl vx vy nx ny => [vx, vy, nx, ny]
  | .intri px py aX aY bX bY cX cY => [px, py, aX, aY, bX, bY, cX, cY]
  | .modinv a modulus => [a, modulus]
  | .isprime n => [n]
  | .gcd a b => [a, b]
  | .lcm a b => [a, b]
  | .fact n => [n]
  | .nck n k => [n, k]
  | .log2 n => [n]
  | .log10 n => [n]
  | .popcnt n => [n]
  | .bitrev n => [n]
  | .phi n => [n]
  | .rotl x n => [x, n.setWidth 64]
  | .rotr x n => [x, n.setWidth 64]
  | .cteq a b => [a, b]
  | .clmul a b => [a, b]
  | .rng seed => [seed]
  | .padd p q a modulus => p.words ++ q.words ++ [a, modulus]
  | .pdbl p a modulus => p.words ++ [a, modulus]
  | .proj angle v0 gravity => [angle, v0, gravity]

/-- The bytes of a command: the selector, then one 32-byte word per argument (30_encoding.md R60, R74). -/
def encode (i : Instr) : List Byte :=
  beBytes 4 i.op.selector ++ i.args.flatMap abiWord

/-- Byte `k` of a command given as table bits `w` of which the table numbers `nbits`: 32-bit words of `w`, bit 0 the least
significant bit of the first, each stored big-endian, the first at the lowest offset; bits from `nbits` up are 0
(log 8; the selector is the first word, 20_memory.md R43). -/
def tableByte (nbits w k : Nat) : Byte :=
  BitVec.ofNat 8 ((w % 2 ^ nbits) >>> (32 * (k / 4) + 8 * (3 - k % 4)))

/-- The 260 bytes of the longest command (10_state.md R22), laid out from table bits. -/
def tableBytes (nbits w : Nat) : List Byte :=
  (List.range cmdCap).map (tableByte nbits w)

/-- The instruction a decoding stands for, if it is one. -/
def Decoded.toInstr : Decoded → Option Instr
  | .instr i => some i
  | .unknownSelector _ => none
  | .shortCommand => none

/-- The instruction the decoder reads from a row's bits, numbered as `spec/opcode_table.json` numbers them. -/
def decodeTableWord (nbits w : Nat) : Option Instr :=
  (decode (tableBytes nbits w)).toInstr

end Sys2Proof
end

