-- ==== Sys2Proof/Config.lean ====
section
/-! DEFINITION. What an implementation fixes (00_scope.md R10, 10_state.md R34) and the free values: opaque constants
that no proof can see into, for the bytes and the register the spec calls unspecified (93_implementation_defined.md U7, U8). -/

namespace Sys2Proof

/-- The two open parameters, which a model takes as configuration fields (10_state.md R34). No step writes them. -/
structure Config where
  /-- `SIN_TABLE[0..90]`, scale 10000 (41_trig.md R122). -/
  sinTable : List Nat
  /-- `RNG_MULT` (46_stream_generator.md R242). -/
  rngMult : U64
deriving DecidableEq, Repr

/-- The constraints on any instance of the parameters (93_implementation_defined.md U11, U12): 91 entries, the first 0, the
last 10000, none below the one before it; and the multiplier odd. -/
def Config.wf (c : Config) : Bool :=
  c.sinTable.length == 91 && c.sinTable.getD 0 0 == 0 && c.sinTable.getD 90 0 == 10000
    && (List.range 90).all (fun i => decide (c.sinTable.getD i 0 ≤ c.sinTable.getD (i + 1) 0))
    && c.rngMult.getLsbD 0

/-- FREE VALUE (log 3): the byte of `CMD` at an offset that HOST has not written since the reset numbered `epoch`
(10_state.md R22, R38, 70_reset_and_hazards.md R281). -/
opaque Config.cmdUnspecified (epoch off : Nat) : Byte

/-- FREE VALUE (log 4): what a read of `RSP` at `off` gives where the spec leaves it unspecified, in the period numbered
`epoch` (10_state.md R33, 60_exceptions.md R262, 70_reset_and_hazards.md R281, R286). -/
opaque Config.rspUnspecified (epoch off : Nat) : Byte

/-- FREE VALUE (log 5): what a read of `RSP_LEN` gives outside `DONE`, in the period numbered `epoch`
(70_reset_and_hazards.md R286, 93_implementation_defined.md U7). DESIGN CHOICE, unsafe: all such reads of one period agree. -/
opaque Config.rspLenUnspecified (epoch : Nat) : BitVec 7

end Sys2Proof
end

