-- ==== Sys2Proof/Machine/State.lean ====
section
/-! DEFINITION. The state of LFS-CORE as plain data (10_state.md), the inputs of HOST and platform, and the state right
after reset (10_state.md R38, 70_reset_and_hazards.md R280). -/

namespace Sys2Proof.Machine

/-- A buffer's bytes as (offset, byte) pairs, offsets strictly rising. An offset that is not listed holds no value the
spec gives (10_state.md R22, R23); the accessors of Ops.lean read it as a free value (log 3, log 4, log 23). -/
abbrev Memory := List Host.Cell

/-- `STATUS` (10_state.md R28): all four codes of its two bits have a name. -/
inductive Status where
  | idle | busy | done | fault
deriving DecidableEq, Repr

/-- `FCAUSE` (10_state.md R31, 60_exceptions.md R261). No rule raises `internalInvariant` (log 17). -/
inductive Cause where
  | none | shortCommand | internalInvariant
deriving DecidableEq, Repr

/-- The five registers as HOST names them, numbers 0 to 4 (10_state.md R27). -/
inductive Reg where
  | ctrl | status | cmdLen | rspLen | fcause
deriving DecidableEq, Repr

/-- What HOST or the platform does next, or the turn handed to CORE (10_state.md R20, 70_reset_and_hazards.md R283; log 1, 2). -/
inductive Input where
  /-- HOST writes one byte of `CMD`. -/
  | writeCmd (off : Nat) (b : Byte)
  /-- HOST writes a register. -/
  | writeReg (r : Reg) (v : Nat)
  /-- HOST reads a register. -/
  | readReg (r : Reg)
  /-- HOST reads one byte of `RSP`. -/
  | readRsp (off : Nat)
  /-- The platform applies reset (70_reset_and_hazards.md R280). -/
  | reset
  /-- CORE takes one step. -/
  | coreTurn
deriving DecidableEq, Repr

/-- What a HOST read returned. -/
inductive Reply where
  | reg (r : Reg) (v : Nat)
  | rspByte (off : Nat) (b : Byte)
deriving DecidableEq, Repr

/-- Why the model stops. No instruction and no command ends in one: a short command TAKES the spec's fault and goes on in
`STATUS = FAULT` (60_exceptions.md R262). -/
inductive Fault where
  /-- Raised by the input `writeCmd` at an offset of 260 or more: no such address exists (20_memory.md R40). Safe: the model
  stops where the spec describes no effect (log 10). -/
  | cmdOffsetAbsent (off : Nat)
  /-- Raised by the input `readRsp` at an offset of 96 or more: no such address exists (20_memory.md R40). Safe: the model
  stops where the spec describes no effect (log 10). -/
  | rspOffsetAbsent (off : Nat)
deriving DecidableEq, Repr

/-- Why an instruction has no meaning. -/
inductive Refusal where
  /-- Raised by an arm of `exec` whose instruction has no meaning yet; no arm raises it. Safe. -/
  | notModelled (mnemonic : String)
deriving DecidableEq, Repr

/-- The block (10_state.md), its configuration, and the model's own record of what HOST and platform do. `CTRL` has no
storage: it is self-clearing and reads 0 (10_state.md R30; log 20). -/
structure State where
  /-- The open parameters (10_state.md R34); no step writes them (log 7). -/
  cfg : Config
  /-- `STATUS` (10_state.md R28). -/
  status : Status
  /-- `CMD_LEN` (10_state.md R29). -/
  cmdLen : BitVec 9
  /-- `RSP_LEN` (10_state.md R33). -/
  rspLen : BitVec 7
  /-- `FCAUSE` (10_state.md R31). -/
  fcause : Cause
  /-- `CMD` (10_state.md R22): the bytes HOST has written since reset. -/
  cmd : Memory
  /-- `RSP` (10_state.md R23): the bytes of the valid response. -/
  rsp : Memory
  /-- The latched command: CORE's copy of `CMD[0 .. CMD_LEN)` while `BUSY`, its length the copy of `CMD_LEN`; empty when
  none is live (10_state.md R30, R36, 70_reset_and_hazards.md R280; log 24). -/
  latched : List Byte
  /-- The model's own: how many resets came before, which names the free values of `CMD` (log 3). -/
  cmdEpoch : Nat
  /-- The model's own: how often the unspecified bytes of `RSP` changed, which names their free values (log 4). -/
  rspEpoch : Nat
  /-- The model's own: what HOST and platform will do, oldest first (log 1). -/
  inbox : List Input
  /-- The model's own: what HOST's reads returned, oldest first (log 1). -/
  outbox : List Reply
deriving DecidableEq, Repr

/-- The machine right after reset (10_state.md R38, 70_reset_and_hazards.md R280), with the default parameters
(00_scope.md R10) and no input pending. The last four values are the model's own (log 6). -/
def State.reset : State where
  cfg := defaultConfig
  status := .idle
  cmdLen := 0
  rspLen := 0
  fcause := .none
  cmd := []
  rsp := []
  latched := []
  cmdEpoch := 0
  rspEpoch := 0
  inbox := []
  outbox := []

end Sys2Proof.Machine
end

