-- ==== Sys2Proof/Machine/Flags.lean ====
section
/-! DEFINITION. The flag-like registers. There are no condition codes (10_state.md R26); `STATUS` and `FCAUSE` are read by
HOST as numbers, and no other flag exists. -/

namespace Sys2Proof.Machine

/-- The code of `STATUS` in bits [1:0] (10_state.md R28). -/
def Status.code : Status → BitVec 2
  | .idle => 0#2
  | .busy => 1#2
  | .done => 2#2
  | .fault => 3#2

/-- The code of `FCAUSE` in bits [1:0] (10_state.md R31). -/
def Cause.code : Cause → BitVec 2
  | .none => 0#2
  | .shortCommand => 1#2
  | .internalInvariant => 2#2

/-- The number of a register (10_state.md R27). -/
def Reg.number : Reg → Nat
  | .ctrl => 0
  | .status => 1
  | .cmdLen => 2
  | .rspLen => 3
  | .fcause => 4

end Sys2Proof.Machine
end

