-- ==== Sys2Proof/Machine/Ops.lean ====
section
/-! DEFINITION. The named operations over the buffers and registers: byte access, the latch at `START`, writing a response,
taking the fault, reset, and HOST's register accesses. -/

namespace Sys2Proof.Machine

/-- The byte a buffer lists at an offset, if any. -/
def Memory.read? : Memory → Nat → Option Byte
  | [], _ => none
  | (k, b) :: m, a => if k = a then some b else Memory.read? m a

/-- Store a byte, keeping the offsets strictly rising. -/
def Memory.write : Memory → Nat → Byte → Memory
  | [], a, b => [(a, b)]
  | (k, c) :: m, a, b =>
    if a < k then (a, b) :: (k, c) :: m
    else if a = k then (a, b) :: m
    else (k, c) :: Memory.write m a b

/-- The buffer that lists exactly `bs`, from offset `off` up. -/
def Memory.block : Nat → List Byte → Memory
  | _, [] => []
  | off, b :: bs => (off, b) :: Memory.block (off + 1) bs

/-- The canonical form: offsets strictly rising. (An unlisted offset holds no byte at all, so no listed byte can equal what
an unlisted offset holds; log 23.) -/
abbrev Memory.wf (m : Memory) : Prop := m.Pairwise (fun p q => p.1 < q.1)

/-- Every listed offset lies below `cap`. -/
abbrev Memory.below (cap : Nat) (m : Memory) : Prop := ∀ p ∈ m, p.1 < cap

/-- The byte `CMD` holds: the one HOST wrote, or a free value (10_state.md R22, 70_reset_and_hazards.md R281, R289; log 3). -/
def State.cmdByte (s : State) (off : Nat) : Byte :=
  (s.cmd.read? off).getD (Config.cmdUnspecified s.cmdEpoch off)

/-- The byte HOST reads from `RSP`: the response's while `DONE` and below `RSP_LEN`, a free value otherwise
(70_reset_and_hazards.md R286, 93_implementation_defined.md U7, U8; log 4). -/
def State.rspByte (s : State) (off : Nat) : Byte :=
  if s.status = .done ∧ off < s.rspLen.toNat then
    (s.rsp.read? off).getD (Config.rspUnspecified s.rspEpoch off)
  else Config.rspUnspecified s.rspEpoch off

/-- `CMD[0 .. CMD_LEN)` as the latch copies it (10_state.md R30). -/
def State.command (s : State) : List Byte :=
  (List.range s.cmdLen.toNat).map s.cmdByte

/-- Latch the bytes of a command: the private copy is taken, `RSP_LEN` becomes 0 and `STATUS` `BUSY` (10_state.md R30);
every byte of `RSP` is unspecified from here on (10_state.md R33; log 4). -/
def State.latch (bs : List Byte) (s : State) : State :=
  { s with
    latched := bs, rspLen := 0, status := .busy, rsp := [], rspEpoch := s.rspEpoch + 1 }

/-- A write of 1 to `CTRL.START`: it latches in `IDLE` and `DONE` and has no effect in `BUSY` and `FAULT` (10_state.md R30,
70_reset_and_hazards.md R287). -/
def State.start (s : State) : State :=
  match s.status with
  | .idle => s.latch s.command
  | .busy => s
  | .done => s.latch s.command
  | .fault => s

/-- `RSP <- words(w0, ..., wk)` and the end of the command: the words in `RSP`, `RSP_LEN`, then `STATUS` `DONE`
(30_encoding.md R66, 10_state.md R32); nothing of the latched command survives (10_state.md R36), and the bytes of `RSP` beyond
`RSP_LEN` are unspecified (10_state.md R33; log 4). -/
def State.respond (ws : List U64) (s : State) : State :=
  { s with
    rsp := Memory.block 0 (ws.flatMap abiWord), rspLen := BitVec.ofNat 7 (32 * ws.length),
    status := .done, latched := [], rspEpoch := s.rspEpoch + 1 }

/-- `raise Fault(cause)`: the one fault entry (60_exceptions.md R262). `CMD` and `CMD_LEN` are kept, the bytes of `RSP` are
unspecified, and no response exists. There is no handler and nothing is saved. -/
def State.takeFault (c : Cause) (s : State) : State :=
  { s with
    fcause := c, rspLen := 0, status := .fault, rsp := [], latched := [], rspEpoch := s.rspEpoch + 1 }

/-- Reset, from any state and the only way out of `FAULT` (60_exceptions.md R266, 70_reset_and_hazards.md R280). The parameters are
no state and stay; HOST's own record and plans are outside the block and stay. -/
def State.applyReset (s : State) : State :=
  { State.reset with
    cfg := s.cfg, cmdEpoch := s.cmdEpoch + 1, rspEpoch := s.rspEpoch + 1,
    inbox := s.inbox, outbox := s.outbox }

/-- HOST writes one byte of `CMD`, in any state (10_state.md R22, 20_memory.md R50(c)). -/
def State.writeCmd (off : Nat) (b : Byte) (s : State) : State :=
  { s with cmd := s.cmd.write off b }

/-- HOST writes a register (10_state.md R27): `CMD_LEN` stores 260 for any value above 260 (R29); bit 0 of `CTRL` is `START`, a 0
there has no effect (R30); the three read-only registers discard the write (log 9). -/
def State.writeReg (r : Reg) (v : Nat) (s : State) : State :=
  match r with
  | .ctrl => if v % 2 = 1 then s.start else s
  | .status => s
  | .cmdLen => { s with cmdLen := BitVec.ofNat 9 (min v cmdCap) }
  | .rspLen => s
  | .fcause => s

/-- What HOST reads from a register, as a number: `CTRL` reads 0 (10_state.md R30); `RSP_LEN` is to be relied on in `DONE` only
and is a free value elsewhere (70_reset_and_hazards.md R286, 93_implementation_defined.md U7; log 5). U7 gives each such read
any value; that all of them between two advances of `rspEpoch` agree is the model's own (DESIGN CHOICE, unsafe: log 5). `FCAUSE` reads its code in every
status (10_state.md R31; outside `FAULT` log 25). -/
def State.readReg (s : State) : Reg → Nat
  | .ctrl => 0
  | .status => s.status.code.toNat
  | .cmdLen => s.cmdLen.toNat
  | .rspLen => if s.status = .done then s.rspLen.toNat else (Config.rspLenUnspecified s.rspEpoch).toNat
  | .fcause => s.fcause.code.toNat

/-- Record what a HOST read returned. A read has no other effect (20_memory.md R47). -/
def State.observe (o : Reply) (s : State) : State :=
  { s with outbox := s.outbox ++ [o] }

/-- A command ends with a response of these result words. -/
def answer (ws : List U64) (s : State) : Host.Outcome State Fault Refusal :=
  .next (s.respond ws)

end Sys2Proof.Machine
end

