-- ==== Sys2Proof/Machine/Operands.lean ====
section
/-! DEFINITION. Operand and result forms: the signed readings (00_scope.md R13), the result words of each form
(30_encoding.md R66 to R68, R76), and what HOST reads back from an optional or a point (R77). The argument views themselves
are in Decode.lean. -/

namespace Sys2Proof.Machine

/-- `sint64(u)` of a number below 2^64 (00_scope.md R13). -/
def sint64 (u : Nat) : Int :=
  if u < 2 ^ 63 then (u : Int) else (u : Int) - 2 ^ 64

/-- Form `U`: one word with a `u64` (30_encoding.md R66, R76). -/
def wordU (v : Nat) : U64 := BitVec.ofNat 64 v

/-- Form `I`: `uint64(s)`, the two's-complement pattern, not extended beyond the payload (30_encoding.md R66). -/
def wordI (v : Int) : U64 := BitVec.ofInt 64 v

/-- Form `B`: 1 for true, 0 for false (30_encoding.md R66, R76). -/
def wordB (b : Bool) : U64 := if b then 1#64 else 0#64

/-- Form `O`: presence word, then the payload, zero when absent (30_encoding.md R67). -/
def optionWords : Option Nat → List U64
  | none => [0#64, 0#64]
  | some v => [1#64, wordU v]

/-- Form `P`: presence word, then two coordinate words; `Infinity` is the pair of all-ones words (30_encoding.md R68). -/
def pointWords : Option Point → List U64
  | none => [0#64, 0#64, 0#64]
  | some p => 1#64 :: p.words

/-- Reading an optional back: presence word first, payload only when it is 1 (30_encoding.md R67, R77). -/
def optionOfWords (presence payload : U64) : Option U64 :=
  if presence = 1#64 then some payload else none

/-- Reading a point back: presence word first, then the coordinate words (30_encoding.md R68, R77). -/
def pointOfResult (presence x y : U64) : Option Point :=
  if presence = 1#64 then some (pointOfWords x y) else none

end Sys2Proof.Machine
end

