-- ==== Sys2Proof/Machine/Arith.lean ====
section
/-! DEFINITION. The saturating and fixed-point primitives every family uses (00_scope.md R14, R15, 40_fixed_point.md R116), over
exact integers that are narrowed where the rules narrow them. -/

namespace Sys2Proof.Machine

/-- `satu(v)`: clamp to `u64` (00_scope.md R14). -/
def satu (v : Int) : Nat :=
  if v < 0 then 0 else if v > (u64Max : Int) then u64Max else v.toNat

/-- `sati(v)`: clamp to `i64` (00_scope.md R14). -/
def sati (v : Int) : Int :=
  if v < i64Min then i64Min else if v > i64Max then i64Max else v

/-- Unsigned fixed-point product: saturate, then divide by 100 (00_scope.md R15, 40_fixed_point.md R104). -/
def fxMul (a b : Nat) : Nat := satu ((a : Int) * b) / 100

/-- Unsigned fixed-point quotient, 0 for a zero divisor (00_scope.md R15, 40_fixed_point.md R106). -/
def fxDiv (a b : Nat) : Nat := if b = 0 then 0 else satu ((a : Int) * 100) / b

/-- Signed fixed-point product, truncated toward zero (00_scope.md R15). -/
def smul (a b : Int) : Int := Int.tdiv (sati (a * b)) 100

/-- Signed fixed-point quotient for a divisor that is not 0 (00_scope.md R15). -/
def sdiv (a b : Int) : Int := sati (Int.tdiv (sati (a * 100)) b)

/-- The Babylonian loop `while y < x` on `s` (40_fixed_point.md R110). `x` falls in every round, so `fuel = x` rounds are
enough (log 18). -/
def newtonLoop (s : Nat) : Nat → Nat → Nat → Nat
  | 0, x, _ => x
  | fuel + 1, x, y => if y < x then newtonLoop s fuel y ((y + s / y) / 2) else x

/-- The root of `s` by the loop started at `x = s`, `y = (x + 1) / 2` (40_fixed_point.md R110). -/
def newtonRoot (s : Nat) : Nat :=
  if s = 0 then 0 else newtonLoop s s s ((s + 1) / 2)

/-- `fsqrt(n)`: the value of `SQRT n`, root of the saturated `n * 100` (40_fixed_point.md R110). -/
def fsqrt (n : Nat) : Nat := newtonRoot (satu ((n : Int) * 100))

end Sys2Proof.Machine
end

