-- ==== Sys2Proof/Machine/Modular.lean ====
section
/-! DEFINITION. Number-Theory Engine, modular part: MODEXP, MODINV, ISPRIME, GCD, LCM (43_modular.md). -/

namespace Sys2Proof.Machine

/-- `mulmod(a, b, m)` with an exact product (43_modular.md R170). -/
def mulmod (a b m : Nat) : Nat := a * b % m

/-- Square-and-multiply while `e > 0`; 64 rounds are enough for a 64-bit exponent (43_modular.md R172; log 18). -/
def modexpLoop (m : Nat) : Nat → Nat → Nat → Nat → Nat
  | 0, r, _, _ => r
  | fuel + 1, r, b, e =>
    if e = 0 then r
    else modexpLoop m fuel (if e % 2 = 1 then mulmod r b m else r) (mulmod b b m) (e / 2)

/-- The value of `MODEXP`, 0 for modulus 0 or 1 (43_modular.md R172). -/
def modexpValue (base exp m : Nat) : Nat :=
  if m = 0 ∨ m = 1 then 0 else modexpLoop m 64 1 (base % m) exp

/-- `MODEXP base, exp, modulus` (43_modular.md R172). -/
def execModexp (base exp modulus : U64) (s : State) : Host.Outcome State Fault Refusal :=
  answer [wordU (modexpValue base.toNat exp.toNat modulus.toNat)] s

/-- The extended Euclid loop: remainders `r0, r1`, Bezout coefficients `t0, t1` of the first argument; the last `r0` and `t0`.
`r1` falls in every round, so `fuel = r1` rounds are enough (43_modular.md R176; log 18). -/
def euclidLoop : Nat → Nat → Nat → Int → Int → Nat × Int
  | 0, r0, _, t0, _ => (r0, t0)
  | fuel + 1, r0, r1, t0, t1 =>
    if r1 = 0 then (r0, t0)
    else euclidLoop fuel r1 (r0 - r0 / r1 * r1) t1 (t0 - (r0 / r1 : Nat) * t1)

/-- `modinv`: `none` when the modulus is 0 or the gcd is not 1, otherwise the representative in `[0, m)`
(43_modular.md R176). -/
def modinvValue (a m : Nat) : Option Nat :=
  if m = 0 then none
  else
    let e := euclidLoop m m (a % m) 0 1
    if e.1 ≠ 1 then none else some (if e.2 < 0 then e.2 + m else e.2).toNat

/-- `MODINV a, modulus` (43_modular.md R176). -/
def execModinv (a modulus : U64) (s : State) : Host.Outcome State Fault Refusal :=
  answer (optionWords (modinvValue a.toNat modulus.toNat)) s

/-- Strip factors of two: `d * 2^r` stays the same and the final `d` is odd for `d > 0`; `fuel = d` rounds are enough
(43_modular.md R180; log 18). -/
def oddPart : Nat → Nat → Nat → Nat × Nat
  | 0, d, r => (d, r)
  | fuel + 1, d, r => if d % 2 = 0 then oddPart fuel (d / 2) (r + 1) else (d, r)

/-- Square `x` up to `k` times modulo `n`; does `n - 1` appear (43_modular.md R180)? -/
def squaresReach (n : Nat) : Nat → Nat → Bool
  | 0, _ => false
  | k + 1, x => if mulmod x x n = n - 1 then true else squaresReach n k (mulmod x x n)

/-- One round with witness `a` for `n - 1 = d * 2^r`: does `n` pass? A witness that is a multiple of `n` is skipped
(43_modular.md R180). -/
def witnessPasses (n d r a : Nat) : Bool :=
  if a % n = 0 then true
  else
    let x := modexpValue a d n
    if x = 1 ∨ x = n - 1 then true else squaresReach n (r - 1) x

/-- Deterministic Miller-Rabin with the short-circuit tests first (43_modular.md R180). -/
def isPrimeValue (n : Nat) : Bool :=
  if n < 2 then false
  else if n = 2 ∨ n = 3 then true
  else if n % 2 = 0 ∨ n % 3 = 0 then false
  else
    let f := oddPart (n - 1) (n - 1) 0
    witnesses.all (witnessPasses n f.1 f.2)

/-- `ISPRIME n` (43_modular.md R180). -/
def execIsprime (n : U64) (s : State) : Host.Outcome State Fault Refusal :=
  answer [wordB (isPrimeValue n.toNat)] s

/-- Euclid's loop; `b` falls in every round, so `fuel = b` rounds are enough (43_modular.md R184; log 18). -/
def gcdLoop : Nat → Nat → Nat → Nat
  | 0, a, _ => a
  | fuel + 1, a, b => if b = 0 then a else gcdLoop fuel b (a % b)

/-- The value of `GCD` (43_modular.md R184). -/
def gcdValue (a b : Nat) : Nat := gcdLoop b a b

/-- `GCD a, b` (43_modular.md R184). -/
def execGcd (a b : U64) (s : State) : Host.Outcome State Fault Refusal :=
  answer [wordU (gcdValue a.toNat b.toNat)] s

/-- The value of `LCM`: 0 if either is 0, else divide, multiply, saturate (43_modular.md R186). -/
def lcmValue (a b : Nat) : Nat :=
  if a = 0 ∨ b = 0 then 0 else satu ((a / gcdValue a b : Nat) * (b : Int))

/-- `LCM a, b` (43_modular.md R186). -/
def execLcm (a b : U64) (s : State) : Host.Outcome State Fault Refusal :=
  answer [wordU (lcmValue a.toNat b.toNat)] s

end Sys2Proof.Machine
end

