-- ==== Sys2Proof/Machine/Curve.lean ====
section
/-! DEFINITION. Elliptic-Curve Engine: PADD, PDBL (45_elliptic_curve.md). Equality tests are on raw coordinates, arithmetic is
modulo the command's modulus (R221, R222). -/

namespace Sys2Proof.Machine

/-- `addm` (45_elliptic_curve.md R222). -/
def addm (m u v : Nat) : Nat := (u % m + v % m) % m

/-- `subm` (45_elliptic_curve.md R222). -/
def subm (m u v : Nat) : Nat := (u % m + m - v % m) % m

/-- `mulm` (45_elliptic_curve.md R222). -/
def mulm (m u v : Nat) : Nat := mulmod (u % m) (v % m) m

/-- `inv` (45_elliptic_curve.md R222). -/
def invm (m u : Nat) : Option Nat := modinvValue (u % m) m

/-- A finite point from two residues. -/
def residuePoint (x y : Nat) : Point := .coord (BitVec.ofNat 64 x) (BitVec.ofNat 64 y)

/-- The tangent formulas for a finite point, given the inverse of `2y` (45_elliptic_curve.md R224). -/
def tangentPoint (x y a m i : Nat) : Point :=
  let num := addm m (mulm m 3 (mulm m x x)) a
  let lam := mulm m num i
  let x3 := subm m (mulm m lam lam) (addm m x x)
  let y3 := subm m (mulm m lam (subm m x x3)) y
  residuePoint x3 y3

/-- `pdbl(P, a, m)` (45_elliptic_curve.md R224). -/
def pdblValue (p : Point) (a m : Nat) : Option Point :=
  match p with
  | .infinity => some .infinity
  | .coord x y =>
    if y.toNat = 0 ∨ m = 0 then some .infinity
    else
      match invm m (addm m y.toNat y.toNat) with
      | none => none
      | some i => some (tangentPoint x.toNat y.toNat a m i)

/-- The secant formulas for two finite points, given the inverse of `x2 - x1` (45_elliptic_curve.md R226). -/
def secantPoint (x1 y1 x2 y2 m i : Nat) : Point :=
  let lam := mulm m (subm m y2 y1) i
  let x3 := subm m (subm m (mulm m lam lam) x1) x2
  let y3 := subm m (mulm m lam (subm m x1 x3)) y1
  residuePoint x3 y3

/-- `padd(P, Q, a, m)` (45_elliptic_curve.md R226). -/
def paddValue (p q : Point) (a m : Nat) : Option Point :=
  match p, q with
  | .infinity, q => some q
  | .coord x y, .infinity => some (.coord x y)
  | .coord x1 y1, .coord x2 y2 =>
    if x1 = x2 then
      if y1 = y2 then pdblValue (.coord x1 y1) a m else some .infinity
    else if m = 0 then none
    else
      match invm m (subm m x2.toNat x1.toNat) with
      | none => none
      | some i => some (secantPoint x1.toNat y1.toNat x2.toNat y2.toNat m i)

/-- `PADD x1, y1, x2, y2, a, modulus` (45_elliptic_curve.md R226). -/
def execPadd (p q : Point) (a modulus : U64) (s : State) : Host.Outcome State Fault Refusal :=
  answer (pointWords (paddValue p q a.toNat modulus.toNat)) s

/-- `PDBL x, y, a, modulus` (45_elliptic_curve.md R224). -/
def execPdbl (p : Point) (a modulus : U64) (s : State) : Host.Outcome State Fault Refusal :=
  answer (pointWords (pdblValue p a.toNat modulus.toNat)) s

end Sys2Proof.Machine
end

