-- ==== Sys2Proof/Machine/FixedPoint.lean ====
section
/-! DEFINITION. Fixed-Point Core: MUL, DIV, SQUARE, SQRT, CLAMP, LERP (40_fixed_point.md). -/

namespace Sys2Proof.Machine

/-- `MUL a, b` (40_fixed_point.md R104). -/
def execMul (a b : U64) (s : State) : Host.Outcome State Fault Refusal :=
  answer [wordU (fxMul a.toNat b.toNat)] s

/-- `DIV a, b` (40_fixed_point.md R106). -/
def execDiv (a b : U64) (s : State) : Host.Outcome State Fault Refusal :=
  answer [wordU (fxDiv a.toNat b.toNat)] s

/-- `SQUARE n` (40_fixed_point.md R108). -/
def execSquare (n : U64) (s : State) : Host.Outcome State Fault Refusal :=
  answer [wordU (fxMul n.toNat n.toNat)] s

/-- `SQRT n` (40_fixed_point.md R110). -/
def execSqrt (n : U64) (s : State) : Host.Outcome State Fault Refusal :=
  answer [wordU (fsqrt n.toNat)] s

/-- The two tests of `CLAMP` in the rule's order, which decides the result for `min > max` (40_fixed_point.md R112, R113;
log 14). -/
def clampValue (v min max : Nat) : Nat :=
  if v < min then min else if v > max then max else v

/-- `CLAMP v, min, max` (40_fixed_point.md R112). -/
def execClamp (v min max : U64) (s : State) : Host.Outcome State Fault Refusal :=
  answer [wordU (clampValue v.toNat min.toNat max.toNat)] s

/-- The value of `LERP`, with `t` clamped to 100 (40_fixed_point.md R114). -/
def lerpValue (start stop t : Nat) : Nat :=
  let tc := if t > 100 then 100 else t
  let up := satu ((stop : Int) - start)
  let down := satu ((start : Int) - stop)
  satu ((satu ((start : Int) + fxMul up tc) : Int) - fxMul down tc)

/-- `LERP start, end, t` (40_fixed_point.md R114). -/
def execLerp (start stop t : U64) (s : State) : Host.Outcome State Fault Refusal :=
  answer [wordU (lerpValue start.toNat stop.toNat t.toNat)] s

end Sys2Proof.Machine
end

