-- ==== Sys2Proof/Machine/Trig.lean ====
section
/-! DEFINITION. Trigonometric Engine: SIN, COS (41_trig.md). -/

namespace Sys2Proof.Machine

/-- `sinfold(angle)`: quadrant, whole-degree index, reverse read in quadrants 1 and 3, table entry over 100, negated in
quadrants 2 and 3 (41_trig.md R124). The index is at most 90, inside any table of 91 entries. -/
def sinfold (table : List Nat) (angle : Nat) : Int :=
  let a := angle % 3600
  let q := a / 900
  let off := a % 900
  let idx := if q = 1 ∨ q = 3 then 90 - off / 10 else off / 10
  let m : Int := (table.getD idx 0 / 100 : Nat)
  if q = 2 ∨ q = 3 then -m else m

/-- The value of `COS angle`: `sinfold` of the 64-bit wrapping sum with 900 (41_trig.md R128). -/
def cosfold (table : List Nat) (angle : Nat) : Int :=
  sinfold table ((angle + 900) % 2 ^ 64)

/-- `SIN angle` (41_trig.md R126). -/
def execSin (angle : U64) (s : State) : Host.Outcome State Fault Refusal :=
  answer [wordI (sinfold s.cfg.sinTable angle.toNat)] s

/-- `COS angle` (41_trig.md R128). -/
def execCos (angle : U64) (s : State) : Host.Outcome State Fault Refusal :=
  answer [wordI (cosfold s.cfg.sinTable angle.toNat)] s

end Sys2Proof.Machine
end

