-- ==== Sys2Proof/Machine/Geometry.lean ====
section
/-! DEFINITION. Geometry Engine: distances, products, containment and vector algebra (42_geometry.md). Positions and radii
are read unsigned, directions signed (R140). -/

namespace Sys2Proof.Machine

/-- Absolute difference of two positions (42_geometry.md R142). -/
def absDiff (a b : Nat) : Nat := if a ≥ b then a - b else b - a

/-- Squared distance at scale 100 (42_geometry.md R142). -/
def sqdistValue (x1 y1 x2 y2 : Nat) : Nat :=
  let dx := absDiff x1 x2
  let dy := absDiff y1 y2
  satu ((fxMul dx dx : Int) + fxMul dy dy)

/-- `dot` (42_geometry.md R144). -/
def dotValue (aX aY bX bY : Int) : Int := sati (smul aX bX + smul aY bY)

/-- `cross` (42_geometry.md R144). -/
def crossValue (aX aY bX bY : Int) : Int := sati (smul aX bY - smul aY bX)

/-- `mag`; the dot product of a vector with itself is never negative (42_geometry.md R144). -/
def magValue (x y : Int) : Nat := fsqrt (dotValue x y x y).toNat

/-- `SQDIST x1, y1, x2, y2` (42_geometry.md R142). -/
def execSqdist (x1 y1 x2 y2 : U64) (s : State) : Host.Outcome State Fault Refusal :=
  answer [wordU (sqdistValue x1.toNat y1.toNat x2.toNat y2.toNat)] s

/-- `DIST x1, y1, x2, y2` (42_geometry.md R143). -/
def execDist (x1 y1 x2 y2 : U64) (s : State) : Host.Outcome State Fault Refusal :=
  answer [wordU (fsqrt (sqdistValue x1.toNat y1.toNat x2.toNat y2.toNat))] s

/-- `DOT ax, ay, bx, by` (42_geometry.md R145). -/
def execDot (aX aY bX bY : I64) (s : State) : Host.Outcome State Fault Refusal :=
  answer [wordI (dotValue aX.toInt aY.toInt bX.toInt bY.toInt)] s

/-- `MAG x, y` (42_geometry.md R146). -/
def execMag (x y : I64) (s : State) : Host.Outcome State Fault Refusal :=
  answer [wordU (magValue x.toInt y.toInt)] s

/-- `CROSS ax, ay, bx, by` (42_geometry.md R148). -/
def execCross (aX aY bX bY : I64) (s : State) : Host.Outcome State Fault Refusal :=
  answer [wordI (crossValue aX.toInt aY.toInt bX.toInt bY.toInt)] s

/-- The two components after `CLAMPMAG`: ratio first, then each component (42_geometry.md R150). -/
def clampMagValue (x y : Int) (max : Nat) : Int × Int :=
  let m := magValue x y
  if m > max then
    let ratio := fxDiv max m
    (smul x (sint64 ratio), smul y (sint64 ratio))
  else (x, y)

/-- `CLAMPMAG x, y, max` (42_geometry.md R150). -/
def execClampmag (x y : I64) (max : U64) (s : State) : Host.Outcome State Fault Refusal :=
  let v := clampMagValue x.toInt y.toInt max.toNat
  answer [wordI v.1, wordI v.2] s

/-- Closed containment in a rectangle given by two corners (42_geometry.md R152). -/
def inRectValue (px py minX minY maxX maxY : Nat) : Bool :=
  decide (minX ≤ px ∧ px ≤ maxX ∧ minY ≤ py ∧ py ≤ maxY)

/-- `INRECT px, py, min_x, min_y, max_x, max_y` (42_geometry.md R152). -/
def execInrect (px py minX minY maxX maxY : U64) (s : State) : Host.Outcome State Fault Refusal :=
  answer [wordB (inRectValue px.toNat py.toNat minX.toNat minY.toNat maxX.toNat maxY.toNat)] s

/-- Closed containment in a circle, squared distance against squared radius (42_geometry.md R153). -/
def inCircValue (px py cx cy r : Nat) : Bool :=
  decide (sqdistValue px py cx cy ≤ fxMul r r)

/-- `INCIRC px, py, cx, cy, r` (42_geometry.md R153). -/
def execIncirc (px py cx cy r : U64) (s : State) : Host.Outcome State Fault Refusal :=
  answer [wordB (inCircValue px.toNat py.toNat cx.toNat cy.toNat r.toNat)] s

/-- `VADD ax, ay, bx, by` (42_geometry.md R155). -/
def execVadd (aX aY bX bY : I64) (s : State) : Host.Outcome State Fault Refusal :=
  answer [wordI (sati (aX.toInt + bX.toInt)), wordI (sati (aY.toInt + bY.toInt))] s

/-- `VSUB ax, ay, bx, by` (42_geometry.md R156). -/
def execVsub (aX aY bX bY : I64) (s : State) : Host.Outcome State Fault Refusal :=
  answer [wordI (sati (aX.toInt - bX.toInt)), wordI (sati (aY.toInt - bY.toInt))] s

/-- `VSCALE x, y, k` (42_geometry.md R157). -/
def execVscale (x y k : I64) (s : State) : Host.Outcome State Fault Refusal :=
  answer [wordI (smul x.toInt k.toInt), wordI (smul y.toInt k.toInt)] s

/-- The two components of the unit vector, zero for a zero magnitude (42_geometry.md R158). -/
def vnormValue (x y : Int) : Int × Int :=
  let m := magValue x y
  if m = 0 then (0, 0) else (sdiv x (sint64 m), sdiv y (sint64 m))

/-- `VNORM x, y` (42_geometry.md R158). -/
def execVnorm (x y : I64) (s : State) : Host.Outcome State Fault Refusal :=
  let v := vnormValue x.toInt y.toInt
  answer [wordI v.1, wordI v.2] s

/-- Counter-clockwise rotation (42_geometry.md R160). -/
def vrotValue (table : List Nat) (x y : Int) (angle : Nat) : Int × Int :=
  let c := cosfold table angle
  let d := sinfold table angle
  (sati (smul x c - smul y d), sati (smul x d + smul y c))

/-- `VROT x, y, angle` (42_geometry.md R160). -/
def execVrot (x y : I64) (angle : U64) (s : State) : Host.Outcome State Fault Refusal :=
  let v := vrotValue s.cfg.sinTable x.toInt y.toInt angle.toNat
  answer [wordI v.1, wordI v.2] s

/-- Reflection `v - 2 (v.n) n`, the 2 an integer factor (42_geometry.md R162). -/
def vreflValue (vx vy nx ny : Int) : Int × Int :=
  let d := dotValue vx vy nx ny
  let k := sati (2 * d)
  (sati (vx - smul k nx), sati (vy - smul k ny))

/-- `VREFL vx, vy, nx, ny` (42_geometry.md R162). -/
def execVrefl (vx vy nx ny : I64) (s : State) : Host.Outcome State Fault Refusal :=
  let v := vreflValue vx.toInt vy.toInt nx.toInt ny.toInt
  answer [wordI v.1, wordI v.2] s

/-- `sd(u, v)`: saturating signed difference of two positions (42_geometry.md R168). -/
def posDiff (u v : Nat) : Int := sati ((u : Int) - v)

/-- One edge of `INTRI`: the cross product of edge `(uX, uY) -> (vX, vY)` with `(uX, uY) -> (px, py)` (42_geometry.md R168). -/
def edgeCross (uX uY vX vY px py : Nat) : Int :=
  crossValue (posDiff vX uX) (posDiff vY uY) (posDiff px uX) (posDiff py uY)

/-- The same-sign test over the three edges, zero agreeing with both signs (42_geometry.md R168). -/
def inTriValue (px py aX aY bX bY cX cY : Nat) : Bool :=
  let d1 := edgeCross aX aY bX bY px py
  let d2 := edgeCross bX bY cX cY px py
  let d3 := edgeCross cX cY aX aY px py
  decide ((d1 ≥ 0 ∧ d2 ≥ 0 ∧ d3 ≥ 0) ∨ (d1 ≤ 0 ∧ d2 ≤ 0 ∧ d3 ≤ 0))

/-- `INTRI px, py, ax, ay, bx, by, cx, cy` (42_geometry.md R168). -/
def execIntri (px py aX aY bX bY cX cY : U64) (s : State) : Host.Outcome State Fault Refusal :=
  answer [wordB (inTriValue px.toNat py.toNat aX.toNat aY.toNat bX.toNat bY.toNat cX.toNat cY.toNat)] s

end Sys2Proof.Machine
end

