-- ==== Sys2Proof/Machine/IntegerUtils.lean ====
section
/-! DEFINITION. Number-Theory Engine, integer utilities: FACT, NCK, LOG2, LOG10, POPCNT, BITREV, PHI, ROTL, ROTR, CTEQ, CLMUL
(44_integer_utils.md). -/

namespace Sys2Proof.Machine

/-- The product over `i` in `2 .. n` by saturating multiplies, from 1 (44_integer_utils.md R192). -/
def factProduct (n : Nat) : Nat :=
  (List.range' 2 (n - 1)).foldl (fun r i => satu ((r : Int) * i)) 1

/-- The value of `FACT`, absent above 20 (44_integer_utils.md R192). -/
def factValue (n : Nat) : Option Nat := if n > 20 then none else some (factProduct n)

/-- `FACT n` (44_integer_utils.md R192). -/
def execFact (n : U64) (s : State) : Host.Outcome State Fault Refusal :=
  answer (optionWords (factValue n.toNat)) s

/-- The running value of `NCK` after `i` rounds: multiply, saturate, then floor divide (44_integer_utils.md R194). -/
def nckRun (n : Nat) : Nat → Nat
  | 0 => 1
  | i + 1 => satu ((nckRun n i : Int) * (n - i : Nat)) / (i + 1)

/-- The value of `NCK`, with the symmetry reduction and 0 for `k > n` (44_integer_utils.md R194). -/
def nckValue (n k : Nat) : Nat :=
  if k > n then 0 else nckRun n (if k ≤ n - k then k else n - k)

/-- `NCK n, k` (44_integer_utils.md R194). -/
def execNck (n k : U64) (s : State) : Host.Outcome State Fault Refusal :=
  answer [wordU (nckValue n.toNat k.toNat)] s

/-- The value of `LOG2`: the index of the highest set bit, absent at 0 (44_integer_utils.md R196). -/
def log2Value (n : Nat) : Option Nat := if n = 0 then none else some (Nat.log2 n)

/-- `LOG2 n` (44_integer_utils.md R196). -/
def execLog2 (n : U64) (s : State) : Host.Outcome State Fault Refusal :=
  answer (optionWords (log2Value n.toNat)) s

/-- Divide by 10 while `n >= 10`, counting; `fuel = n` rounds are enough (44_integer_utils.md R198; log 18). -/
def log10Loop : Nat → Nat → Nat → Nat
  | 0, _, p => p
  | fuel + 1, n, p => if n ≥ 10 then log10Loop fuel (n / 10) (p + 1) else p

/-- The value of `LOG10`, absent at 0 (44_integer_utils.md R198). -/
def log10Value (n : Nat) : Option Nat := if n = 0 then none else some (log10Loop n n 0)

/-- `LOG10 n` (44_integer_utils.md R198). -/
def execLog10 (n : U64) (s : State) : Host.Outcome State Fault Refusal :=
  answer (optionWords (log10Value n.toNat)) s

/-- The number of bits of `n` that are 1 (44_integer_utils.md R200). -/
def popcntValue (n : U64) : Nat := (List.range 64).countP (fun i => n.getLsbD i)

/-- `POPCNT n` (44_integer_utils.md R200). -/
def execPopcnt (n : U64) (s : State) : Host.Outcome State Fault Refusal :=
  answer [wordU (popcntValue n)] s

/-- Bit `i` of the result is bit `63 - i` of `n` (44_integer_utils.md R202). -/
def bitrevValue (n : U64) : U64 := BitVec.ofFnLE (fun i : Fin 64 => n.getLsbD (63 - i.val))

/-- `BITREV n` (44_integer_utils.md R202). -/
def execBitrev (n : U64) (s : State) : Host.Outcome State Fault Refusal :=
  answer [bitrevValue n] s

/-- Divide out a factor `p` while it divides `m`; `fuel = m` rounds are enough for `p > 1` (44_integer_utils.md R204; log 18). -/
def stripFactor (p : Nat) : Nat → Nat → Nat
  | 0, m => m
  | fuel + 1, m => if m % p = 0 then stripFactor p fuel (m / p) else m

/-- Trial division while `p * p <= m`, with the exact product; `(res, m)` at the end. The rest `m` never grows and `p` rises, so
`fuel` at least the first `m` is enough (44_integer_utils.md R204; log 18). -/
def phiLoop : Nat → Nat → Nat → Nat → Nat × Nat
  | 0, res, m, _ => (res, m)
  | fuel + 1, res, m, p =>
    if p * p ≤ m then
      if m % p = 0 then phiLoop fuel (res - res / p) (stripFactor p m m) (p + 1)
      else phiLoop fuel res m (p + 1)
    else (res, m)

/-- The value of `PHI` (44_integer_utils.md R204). -/
def phiValue (n : Nat) : Nat :=
  let e := phiLoop n n n 2
  if e.2 > 1 then e.1 - e.1 / e.2 else e.1

/-- `PHI n` (44_integer_utils.md R204). -/
def execPhi (n : U64) (s : State) : Host.Outcome State Fault Refusal :=
  answer [wordU (phiValue n.toNat)] s

/-- The value of `ROTL`, the count reduced modulo 64 (44_integer_utils.md R206). -/
def rotlValue (x n : Nat) : Nat :=
  let k := n % 64
  if k = 0 then x else x * 2 ^ k % 2 ^ 64 + x / 2 ^ (64 - k)

/-- `ROTL x, n` (44_integer_utils.md R206). -/
def execRotl (x : U64) (n : U32) (s : State) : Host.Outcome State Fault Refusal :=
  answer [wordU (rotlValue x.toNat n.toNat)] s

/-- The value of `ROTR`, the count reduced modulo 64 (44_integer_utils.md R207). -/
def rotrValue (x n : Nat) : Nat :=
  let k := n % 64
  if k = 0 then x else x / 2 ^ k + x * 2 ^ (64 - k) % 2 ^ 64

/-- `ROTR x, n` (44_integer_utils.md R207). -/
def execRotr (x : U64) (n : U32) (s : State) : Host.Outcome State Fault Refusal :=
  answer [wordU (rotrValue x.toNat n.toNat)] s

/-- Byte `j` of a payload, `j = 0` the least significant. -/
def byteOf (x : U64) (j : Nat) : Byte := x.extractLsb' (8 * j) 8

/-- The OR of the XORs of all eight bytes, no early exit (44_integer_utils.md R210). -/
def cteqAcc (a b : U64) : Byte :=
  (List.range 8).foldl (fun acc j => acc ||| (byteOf a j ^^^ byteOf b j)) 0#8

/-- `CTEQ a, b` (44_integer_utils.md R210). -/
def execCteq (a b : U64) (s : State) : Host.Outcome State Fault Refusal :=
  answer [wordB (cteqAcc a b == 0#8)] s

/-- The carry-less product, below 2^127: XOR of `a * 2^i` over the set bits `i` of `b` (44_integer_utils.md R212). -/
def clmulValue (a b : Nat) : Nat :=
  (List.range 64).foldl (fun acc i => if b.testBit i then acc ^^^ (a * 2 ^ i) else acc) 0

/-- `CLMUL a, b`: high half first (44_integer_utils.md R212). -/
def execClmul (a b : U64) (s : State) : Host.Outcome State Fault Refusal :=
  let v := clmulValue a.toNat b.toNat
  answer [wordU (v / 2 ^ 64), wordU (v % 2 ^ 64)] s

end Sys2Proof.Machine
end

