-- ==== Sys2Proof/Machine/Stream.lean ====
section
/-! DEFINITION. Stream Generator: RNG (46_stream_generator.md). The block keeps no generator state (R240). -/

namespace Sys2Proof.Machine

/-- The three xor-shift steps, right 12, left 25, right 27 (46_stream_generator.md R242). -/
def xorShifts (x : U64) : U64 :=
  let x1 := x ^^^ (x >>> 12)
  let x2 := x1 ^^^ (x1 <<< 25)
  x2 ^^^ (x2 >>> 27)

/-- The value of `RNG`: a zero seed is remapped to 1, and the product wraps (46_stream_generator.md R241, R242). -/
def rngValue (mult seed : U64) : U64 :=
  xorShifts (if seed = 0#64 then 1#64 else seed) * mult

/-- `RNG seed` (46_stream_generator.md R242). -/
def execRng (seed : U64) (s : State) : Host.Outcome State Fault Refusal :=
  answer [rngValue s.cfg.rngMult seed] s

end Sys2Proof.Machine
end

