-- ==== Sys2Proof/Machine/Trajectory.lean ====
section
/-! DEFINITION. Trajectory Composer: PROJ (47_trajectory.md). -/

namespace Sys2Proof.Machine

/-- The denominator `2 * v0^2 * cos^2` of `PROJ`, with the rule's grouping (47_trajectory.md R252). -/
def projDen (v0 c : Int) : Int := smul (sati (2 * smul v0 v0)) (smul c c)

/-- The coefficients `(c1, c2)`, with the sentinels for a zero cosine and a zero denominator (47_trajectory.md R252). -/
def projValue (table : List Nat) (angle : Nat) (v0 g : Int) : Int × Int :=
  let d := sinfold table angle
  let c := cosfold table angle
  if c = 0 then (i64Max, 0)
  else
    let den := projDen v0 c
    (sdiv d c, if den = 0 then i64Min else sdiv (sati (-g)) den)

/-- `PROJ angle, v0, gravity` (47_trajectory.md R252). -/
def execProj (angle : U64) (v0 gravity : I64) (s : State) : Host.Outcome State Fault Refusal :=
  let v := projValue s.cfg.sinTable angle.toNat v0.toInt gravity.toInt
  answer [wordI v.1, wordI v.2] s

end Sys2Proof.Machine
end

