-- ==== Sys2Proof/Machine/Dispatch.lean ====
section
/-! DEFINITION. One arm per instruction, each a call of its meaning (30_encoding.md R69: the rule named in its row). -/

namespace Sys2Proof.Machine

def exec (i : Instr) (s : State) : Host.Outcome State Fault Refusal :=
  match i with
  | .modexp base exp modulus => Sys2Proof.Machine.execModexp base exp modulus s
  | .square n => Sys2Proof.Machine.execSquare n s
  | .sqrt n => Sys2Proof.Machine.execSqrt n s
  | .mul a b => Sys2Proof.Machine.execMul a b s
  | .div a b => Sys2Proof.Machine.execDiv a b s
  | .lerp start stop t => Sys2Proof.Machine.execLerp start stop t s
  | .sin angle => Sys2Proof.Machine.execSin angle s
  | .cos angle => Sys2Proof.Machine.execCos angle s
  | .sqdist x1 y1 x2 y2 => Sys2Proof.Machine.execSqdist x1 y1 x2 y2 s
  | .dist x1 y1 x2 y2 => Sys2Proof.Machine.execDist x1 y1 x2 y2 s
  | .dot aX aY bX bY => Sys2Proof.Machine.execDot aX aY bX bY s
  | .mag x y => Sys2Proof.Machine.execMag x y s
  | .cross aX aY bX bY => Sys2Proof.Machine.execCross aX aY bX bY s
  | .clamp v min max => Sys2Proof.Machine.execClamp v min max s
  | .clampmag x y max => Sys2Proof.Machine.execClampmag x y max s
  | .inrect px py minX minY maxX maxY => Sys2Proof.Machine.execInrect px py minX minY maxX maxY s
  | .incirc px py cx cy r => Sys2Proof.Machine.execIncirc px py cx cy r s
  | .vadd aX aY bX bY => Sys2Proof.Machine.execVadd aX aY bX bY s
  | .vsub aX aY bX bY => Sys2Proof.Machine.execVsub aX aY bX bY s
  | .vscale x y k => Sys2Proof.Machine.execVscale x y k s
  | .vnorm x y => Sys2Proof.Machine.execVnorm x y s
  | .vrot x y angle => Sys2Proof.Machine.execVrot x y angle s
  | .vrefl vx vy nx ny => Sys2Proof.Machine.execVrefl vx vy nx ny s
  | .intri px py aX aY bX bY cX cY => Sys2Proof.Machine.execIntri px py aX aY bX bY cX cY s
  | .modinv a modulus => Sys2Proof.Machine.execModinv a modulus s
  | .isprime n => Sys2Proof.Machine.execIsprime n s
  | .gcd a b => Sys2Proof.Machine.execGcd a b s
  | .lcm a b => Sys2Proof.Machine.execLcm a b s
  | .fact n => Sys2Proof.Machine.execFact n s
  | .nck n k => Sys2Proof.Machine.execNck n k s
  | .log2 n => Sys2Proof.Machine.execLog2 n s
  | .log10 n => Sys2Proof.Machine.execLog10 n s
  | .popcnt n => Sys2Proof.Machine.execPopcnt n s
  | .bitrev n => Sys2Proof.Machine.execBitrev n s
  | .phi n => Sys2Proof.Machine.execPhi n s
  | .rotl x n => Sys2Proof.Machine.execRotl x n s
  | .rotr x n => Sys2Proof.Machine.execRotr x n s
  | .cteq a b => Sys2Proof.Machine.execCteq a b s
  | .clmul a b => Sys2Proof.Machine.execClmul a b s
  | .rng seed => Sys2Proof.Machine.execRng seed s
  | .padd p q a modulus => Sys2Proof.Machine.execPadd p q a modulus s
  | .pdbl p a modulus => Sys2Proof.Machine.execPdbl p a modulus s
  | .proj angle v0 gravity => Sys2Proof.Machine.execProj angle v0 gravity s

end Sys2Proof.Machine
end

