-- ==== Sys2Proof/Machine/Completion.lean ====
section
/-! DEFINITION. CORE's completing step (10_state.md R32, 30_encoding.md R69) and HOST's and the platform's actions. Step.lean
only chooses between them. -/

namespace Sys2Proof.Machine

/-- The dispatcher on the latched command (30_encoding.md R69): an instruction runs, an unknown selector answers one zero word
(R71), a short command takes the fault (R64, 60_exceptions.md R262). -/
def complete (s : State) : Host.Outcome State Fault Refusal :=
  match decode s.latched with
  | .instr i => exec i s
  | .unknownSelector _ => answer [0#64] s
  | .shortCommand => .next (s.takeFault .shortCommand)

/-- One step of CORE: the one completing step while `BUSY`; otherwise there is nothing to run, and CORE waits for HOST or, in
`FAULT`, for reset (10_state.md R28, R32; log 2). -/
def coreStep (s : State) : Host.Outcome State Fault Refusal :=
  match s.status with
  | .idle => .next s
  | .busy => complete s
  | .done => .next s
  | .fault => .next s

/-- One input (10_state.md R20, R27, 20_memory.md R40, 70_reset_and_hazards.md R280, R283). An access outside a buffer has no
address (log 10). -/
def perform (a : Input) (s : State) : Host.Outcome State Fault Refusal :=
  match a with
  | .writeCmd off b => if off < cmdCap then .next (s.writeCmd off b) else .fault (.cmdOffsetAbsent off)
  | .writeReg r v => .next (s.writeReg r v)
  | .readReg r => .next (s.observe (.reg r (s.readReg r)))
  | .readRsp off =>
    if off < rspCap then .next (s.observe (.rspByte off (s.rspByte off))) else .fault (.rspOffsetAbsent off)
  | .reset => .next s.applyReset
  | .coreTurn => coreStep s

end Sys2Proof.Machine
end

