-- ==== Sys2Proof/Machine/Step.lean ====
section
/-! DEFINITION. One step of the machine: the oldest pending input, or CORE when none is pending (log 1, log 2). -/

namespace Sys2Proof.Machine

/-- The oldest input is taken from the inbox and performed; with an empty inbox CORE moves. -/
def step (s : State) : Host.Outcome State Fault Refusal :=
  match s.inbox with
  | [] => coreStep s
  | a :: rest => perform a { s with inbox := rest }

/-- `s` with the 260 bytes that table bits `w` stand for latched as the running command, and no input before CORE's turn: the
very next step runs that command (log 1, log 8). -/
def State.withFetchWord (s : State) (nbits w : Nat) : State :=
  { s.latch (tableBytes nbits w) with inbox := [] }

end Sys2Proof.Machine
end

