-- ==== Sys2Proof/Safety.lean ====
section
/-! DEFINITION. The terms claims are stated in: what a response is, what a fault leaves, what CORE keeps, the invariant, a run of
several steps, and HOST's command protocol. -/

namespace Sys2Proof.Machine

/-- What CORE's completing step leaves alone: the parameters, `CMD_LEN`, every byte of `CMD`, and HOST's own record and
plans (10_state.md R32, R34, 60_exceptions.md R262, 70_reset_and_hazards.md R289). -/
def KeptByCore (s t : State) : Prop :=
  t.cfg = s.cfg ∧ t.cmdLen = s.cmdLen ∧ t.cmdEpoch = s.cmdEpoch ∧ (∀ off, t.cmdByte off = s.cmdByte off)
    ∧ t.inbox = s.inbox ∧ t.outbox = s.outbox

/-- Byte `off` of a response of the words `ws`: in each 32-byte word bytes 0 to 23 are zero and bytes 24 to 31 the
payload, most significant first (30_encoding.md R66). -/
def responseByte (ws : List U64) (off : Nat) : Byte :=
  if off % 32 < 24 then 0#8 else (ws.getD (off / 32) 0#64).extractLsb' (8 * (31 - off % 32)) 8

/-- From `s` a command ended in `t` with the response `words ws`: `STATUS` is `DONE`, `RSP_LEN` is 32 per word, `RSP` holds
exactly those words, every byte of `RSP` beyond them is unspecified (a free value), no latched command is left, and nothing
else changed (30_encoding.md R66, 10_state.md R32, R33, R36). -/
def Answered (s t : State) (ws : List U64) : Prop :=
  t.status = .done ∧ t.rspLen.toNat = 32 * ws.length
    ∧ (∀ off, off < 32 * ws.length → t.rspByte off = responseByte ws off)
    ∧ (∀ off, 32 * ws.length ≤ off → t.rspByte off = Config.rspUnspecified t.rspEpoch off)
    ∧ t.latched = [] ∧ t.fcause = s.fcause ∧ KeptByCore s t

/-- From `s` a command ended in `t` by `Fault(cause)`: the fault entry of 60_exceptions.md R262. -/
def Faulted (s t : State) (cause : Cause) : Prop :=
  t.status = .fault ∧ t.fcause = cause ∧ t.rspLen = 0
    ∧ (∀ off, t.rspByte off = Config.rspUnspecified t.rspEpoch off)
    ∧ t.latched = [] ∧ KeptByCore s t

/-- The invariant: legal parameters, a legal `CMD_LEN`, both buffers canonical and inside their bounds, `RSP` listing exactly
the valid bytes, a latched command only while `BUSY`, and `RSP_LEN` and `FCAUSE` as each `STATUS` says (10_state.md R22, R23, R28,
R29, R31, R33, 60_exceptions.md R261, R266, 93_implementation_defined.md U11, U12). -/
def State.Inv (s : State) : Prop :=
  s.cfg.wf = true ∧ s.cmdLen.toNat ≤ cmdCap
    ∧ Memory.wf s.cmd ∧ Memory.below cmdCap s.cmd
    ∧ Memory.wf s.rsp ∧ s.rsp.map Prod.fst = List.range s.rspLen.toNat
    ∧ s.latched.length ≤ cmdCap
    ∧ match s.status with
      | .idle => s.rspLen = 0 ∧ s.fcause = .none ∧ s.latched = []
      | .busy => s.rspLen = 0 ∧ s.fcause = .none
      | .done => (s.rspLen = 32 ∨ s.rspLen = 64 ∨ s.rspLen = 96) ∧ s.fcause = .none ∧ s.latched = []
      | .fault => s.rspLen = 0 ∧ s.fcause = .shortCommand ∧ s.latched = []

/-- Several steps, stopping at the first fault or refusal. -/
def runFor : Nat → State → Host.Outcome State Fault Refusal
  | 0, s => .next s
  | n + 1, s =>
    match step s with
    | .next t => runFor n t
    | .fault r => .fault r
    | .refused r => .refused r

/-- HOST's inputs that issue one command: its bytes, its length, then `START` (70_reset_and_hazards.md R283). -/
def issue (bs : List Byte) : List Input :=
  bs.zipIdx.map (fun p => .writeCmd p.2 p.1) ++ [.writeReg .cmdLen bs.length, .writeReg .ctrl 1]

/-- An input by which HOST writes inside the block's address spaces (20_memory.md R40, 10_state.md R27). -/
def Input.isHostWrite : Input → Prop
  | .writeCmd off _ => off < cmdCap
  | .writeReg _ _ => True
  | .readReg _ => False
  | .readRsp _ => False
  | .reset => False
  | .coreTurn => False

/-- Commands of selector `sel` and arity `n` decode to the instruction `f` reads from their bytes: every command long enough,
whatever its other bytes (30_encoding.md R62, R63, R69, R70). -/
def DecodesTo (sel n : Nat) (f : List Byte → Instr) : Prop :=
  ∀ bs : List Byte, memRead bs 0 4 = sel → 4 + 32 * n ≤ bs.length → decode bs = .instr (f bs)

/-- The nearest integer in `i64` (00_scope.md R14). -/
def nearestI64 (v : Int) : Int := max i64Min (min v i64Max)

/-- The signed fixed-point product of 00_scope.md R15, written with `nearestI64`. -/
def fxProduct (a b : Int) : Int := (nearestI64 (a * b)).tdiv 100

/-- The sine by the four quadrants of a full turn, from a table (41_trig.md R124, written out per quadrant). -/
def sineOf (table : List Nat) (angle : Nat) : Int :=
  let entry (k : Nat) : Int := (table.getD k 0 / 100 : Nat)
  let a := angle % 3600
  if a < 900 then entry (a / 10)
  else if a < 1800 then entry (90 - (a - 900) / 10)
  else if a < 2700 then -entry ((a - 1800) / 10)
  else -entry (90 - (a - 2700) / 10)

/-- The cosine: the sine a quarter turn on, with the 64-bit wrap of the sum (41_trig.md R128). -/
def cosineOf (table : List Nat) (angle : U64) : Int := sineOf table (angle + 900#64).toNat

/-- The magnitude of a direction at scale 100, as a floor root (42_geometry.md R144, 40_fixed_point.md R111). -/
def magnitudeOf (x y : Int) : Nat := Nat.sqrt (100 * (fxProduct x x + fxProduct y y).toNat)

/-- The cross product of edge `u -> v` with `u -> p` for positions (42_geometry.md R144, R168). -/
def edgeOf (uX uY vX vY pX pY : U64) : Int :=
  fxProduct (nearestI64 ((vX.toNat : Int) - uX.toNat)) (nearestI64 ((pY.toNat : Int) - uY.toNat))
    - fxProduct (nearestI64 ((vY.toNat : Int) - uY.toNat)) (nearestI64 ((pX.toNat : Int) - uX.toNat))

/-- A point lies on `y^2 = x^3 + a x + b` modulo `m`; the identity lies on every curve (45_elliptic_curve.md R220, R221). -/
def PointOnCurve (m : Nat) (a b : ZMod m) : Point → Prop
  | .infinity => True
  | .coord x y => (y.toNat : ZMod m) ^ 2 = (x.toNat : ZMod m) ^ 3 + a * (x.toNat : ZMod m) + b

end Sys2Proof.Machine
end

