-- ==== Sys2Proof/Certificates/Slice0/Obligations.lean ====
section
/-! DEFINITION. The statements. Each instruction's statement says which commands decode to it, that it completes in every
state, its result words and everything it leaves unchanged (`Answered`). Where a clause rests on a decision of the spec
(92_eei_decisions.md) or on a log entry, the docstring names it. -/

open Sys2Proof Sys2Proof.Machine

/-! ## The machine -/

/-- After reset the registers hold the values of 70_reset_and_hazards.md section 1 (the spec's decision D5), no byte of a buffer is
given a value, nothing is latched, HOST reads 0 from `CTRL`, `STATUS`, `CMD_LEN` and `FCAUSE` (the read of `FCAUSE` outside `FAULT`: log
25), and the parameters are the defaults: the 91 numbers of 41_trig.md R122 (the spec's decision D19) and the multiplier of
46_stream_generator.md R242 (decision D38; their place in `State.reset`: log 7). Reset applied in any state gives the same register
values and fresh unspecified bytes in both buffers, and leaves the parameters (the free bytes: log 3, 4). That the first period of
free bytes is numbered 0, that a reset numbers the next, and that the rest of the inbox and the outbox are kept, is the model's own
choice (log 6). -/
def Obligations.ResetLeavesTheSpecifiedValues : Prop :=
  (State.reset.status = .idle ∧ State.reset.cmdLen = 0 ∧ State.reset.rspLen = 0 ∧ State.reset.fcause = .none
    ∧ State.reset.latched = [] ∧ (∀ off, State.reset.cmdByte off = Config.cmdUnspecified 0 off)
    ∧ (∀ off, State.reset.rspByte off = Config.rspUnspecified 0 off)
    ∧ State.reset.readReg .ctrl = 0 ∧ State.reset.readReg .status = 0 ∧ State.reset.readReg .cmdLen = 0
    ∧ State.reset.readReg .fcause = 0
    ∧ State.reset.cfg.sinTable =
          [0, 175, 349, 523, 698, 872, 1045, 1219, 1392, 1564]
          ++ [1736, 1908, 2079, 2250, 2419, 2588, 2756, 2924, 3090, 3256]
          ++ [3420, 3584, 3746, 3907, 4067, 4226, 4384, 4540, 4695, 4848]
          ++ [5000, 5150, 5299, 5446, 5592, 5736, 5878, 6018, 6157, 6293]
          ++ [6428, 6561, 6691, 6820, 6947, 7071, 7193, 7314, 7431, 7547]
          ++ [7660, 7771, 7880, 7986, 8090, 8192, 8290, 8387, 8480, 8572]
          ++ [8660, 8746, 8829, 8910, 8988, 9063, 9135, 9205, 9272, 9336]
          ++ [9397, 9455, 9511, 9563, 9613, 9659, 9703, 9744, 9781, 9816]
          ++ [9848, 9877, 9903, 9925, 9945, 9962, 9976, 9986, 9994, 9998]
          ++ [10000]
    ∧ State.reset.cfg.rngMult = 0x2545F4914F6CDD1D#64)
  ∧ ∀ (s : State) (rest : List Input), s.inbox = .reset :: rest →
      ∃ t, step s = .next t ∧ t.status = .idle ∧ t.cmdLen = 0 ∧ t.rspLen = 0 ∧ t.fcause = .none ∧ t.latched = []
        ∧ (∀ off, t.cmdByte off = Config.cmdUnspecified (s.cmdEpoch + 1) off)
        ∧ (∀ off, t.rspByte off = Config.rspUnspecified (s.rspEpoch + 1) off)
        ∧ t.cfg = s.cfg ∧ t.inbox = rest ∧ t.outbox = s.outbox

/-- The invariant holds right after reset. -/
def Obligations.ResetSatisfiesTheInvariant : Prop := State.reset.Inv

/-- Every step of the machine, whatever input or command it takes, keeps the invariant: the buffers stay canonical and in
bounds, `RSP` lists exactly the valid bytes, and `RSP_LEN`, `FCAUSE` and the latched command stay as each `STATUS` says
(10_state.md sections 2 and 4, 60_exceptions.md section 1; the registers are the spec's decision D3). -/
def Obligations.EveryStepKeepsTheInvariant : Prop :=
  ∀ s t : State, s.Inv → step s = .next t → t.Inv

/-- `STATUS` moves only along the four transitions of 10_state.md section 4 (the spec's decision D3) and, by reset, to `IDLE` from
any state (70_reset_and_hazards.md section 1). -/
def Obligations.StatusMovesOnlyAlongTheDrawnTransitions : Prop :=
  ∀ s t : State, step s = .next t →
    t.status = s.status
    ∨ ((s.status = .idle ∨ s.status = .done) ∧ t.status = .busy
        ∧ ∃ v rest, s.inbox = .writeReg .ctrl v :: rest ∧ v % 2 = 1)
    ∨ (s.status = .busy ∧ (t.status = .done ∨ t.status = .fault)
        ∧ (s.inbox = [] ∨ ∃ rest, s.inbox = .coreTurn :: rest))
    ∨ (t.status = .idle ∧ ∃ rest, s.inbox = .reset :: rest)

/-- While `BUSY`, on CORE's turn, the step is `exec` of the instruction the latched bytes decode to, on the state itself (with
the turn taken from the inbox): nothing else happens around it (10_state.md section 4, 30_encoding.md section 3; log 1, 2). -/
def Obligations.StepRunsTheLatchedCommand : Prop :=
  ∀ (s : State) (i : Instr), s.status = .busy → decode s.latched = .instr i →
    (s.inbox = [] → step s = exec i s)
    ∧ ∀ rest, s.inbox = .coreTurn :: rest → step s = exec i { s with inbox := rest }

/-- A latched command of fewer than 4 bytes, or of a known selector and fewer than `4 + 32 * arity` bytes, takes the fault
`SHORT_COMMAND` with the fault entry, on CORE's turn by an empty inbox or by an explicit turn (log 2) (30_encoding.md section 2, 60_exceptions.md section 1; the spec's decisions D6, D8). -/
def Obligations.ShortCommandTakesTheFault : Prop :=
  ∀ s : State, s.status = .busy →
    (s.latched.length < 4
      ∨ ∃ op : Op, memRead s.latched 0 4 = op.selector ∧ s.latched.length < 4 + 32 * op.arity) →
    (s.inbox = [] → ∃ t, step s = .next t ∧ Faulted s t .shortCommand)
    ∧ ∀ rest, s.inbox = .coreTurn :: rest →
      ∃ t, step s = .next t ∧ Faulted { s with inbox := rest } t .shortCommand

/-- A command of 4 bytes or more whose 32-bit selector lies outside 0x01 to 0x2B answers one all-zero word in `DONE`, whatever
its other bytes (30_encoding.md R71), on CORE's turn by an empty inbox or by an explicit turn (how CORE gets its turn: log 2). -/
def Obligations.UnknownSelectorAnswersOneZeroWord : Prop :=
  ∀ s : State, s.status = .busy → 4 ≤ s.latched.length →
    (memRead s.latched 0 4 < 0x01 ∨ 0x2B < memRead s.latched 0 4) →
    (s.inbox = [] → ∃ t, step s = .next t ∧ t.status = .done ∧ t.rspLen = 32 ∧ (∀ off, off < 32 → t.rspByte off = 0#8)
      ∧ t.fcause = s.fcause ∧ KeptByCore s t)
    ∧ ∀ rest, s.inbox = .coreTurn :: rest →
      ∃ t, step s = .next t ∧ t.status = .done ∧ t.rspLen = 32 ∧ (∀ off, off < 32 → t.rspByte off = 0#8)
        ∧ t.fcause = s.fcause ∧ KeptByCore { s with inbox := rest } t

/-- In `FAULT` only reset changes anything of the outcome: every other step stays in `FAULT` with the same cause, no response
and no command latched (60_exceptions.md section 4; the spec's decision D8). -/
def Obligations.FaultIsLeftByResetOnly : Prop :=
  ∀ s t : State, s.status = .fault → step s = .next t →
    (t.status = .idle ∧ t.fcause = .none ∧ ∃ rest, s.inbox = .reset :: rest)
    ∨ (t.status = .fault ∧ t.fcause = s.fcause ∧ t.rspLen = s.rspLen ∧ t.latched = s.latched)

/-- A write of 1 to `CTRL.START` in `IDLE` or `DONE` latches `CMD[0 .. CMD_LEN)`, sets `RSP_LEN` to 0 and `STATUS` to `BUSY`, and
leaves the buffer, its length, the cause and the parameters (10_state.md section 4; the spec's decision D3). -/
def Obligations.StartLatchesTheBufferedCommand : Prop :=
  ∀ (s : State) (v : Nat) (rest : List Input), s.status = .idle ∨ s.status = .done →
    s.inbox = .writeReg .ctrl v :: rest → v % 2 = 1 →
    ∃ t, step s = .next t ∧ t.status = .busy ∧ t.rspLen = 0 ∧ t.latched.length = s.cmdLen.toNat
      ∧ (∀ off, off < s.cmdLen.toNat → t.latched[off]? = some (s.cmdByte off))
      ∧ (∀ off, t.cmdByte off = s.cmdByte off) ∧ t.cmdLen = s.cmdLen ∧ t.fcause = s.fcause ∧ t.cfg = s.cfg
      ∧ t.inbox = rest ∧ t.outbox = s.outbox

/-- Register writes: `CMD_LEN` stores the value, or 260 for any value above 260, in every state, and HOST reads that back; `START` while
`BUSY` or in `FAULT` and a write of 0 to bit 0 of `CTRL` have no effect (10_state.md section 4, the spec's decision D3); a write to a
read-only register has none either (the model's reading, log 9). -/
def Obligations.RegisterWritesStoreOrHaveNoEffect : Prop :=
  (∀ (s : State) (v : Nat) (rest : List Input), s.inbox = .writeReg .cmdLen v :: rest →
    ∃ t, step s = .next t ∧ t.readReg .cmdLen = (if v > 260 then 260 else v)
      ∧ t = { s with inbox := rest, cmdLen := t.cmdLen })
  ∧ (∀ (s : State) (r : Reg) (v : Nat) (rest : List Input), s.inbox = .writeReg r v :: rest →
    (r = .ctrl ∧ (s.status = .busy ∨ s.status = .fault)) ∨ (r = .ctrl ∧ v % 2 = 0)
      ∨ r = .status ∨ r = .rspLen ∨ r = .fcause →
    step s = .next { s with inbox := rest })

/-- Any writes HOST makes while `BUSY` (to `CMD`, to registers, `START` among them) leave the running command's outcome as it would have
been: same `STATUS`, `RSP_LEN`, cause and response bytes (20_memory.md section 6, 70_reset_and_hazards.md section 3; the spec's
decision D10). -/
def Obligations.HostWritesDoNotDisturbTheRunningCommand : Prop :=
  ∀ s : State, s.status = .busy → (∀ a ∈ s.inbox, a.isHostWrite) →
    ∃ t u v, runFor s.inbox.length s = .next t ∧ step t = .next u ∧ step { s with inbox := [] } = .next v
      ∧ u.status = v.status ∧ u.rspLen = v.rspLen ∧ u.fcause = v.fcause
      ∧ ∀ off, off < v.rspLen.toNat → u.rspByte off = v.rspByte off

/-- Two latched commands that differ only in bytes 0 to 23 of their argument words, or for the rotates also in bytes 24 to 27
of the count word, have the same outcome (20_memory.md R55). -/
def Obligations.HighArgumentBytesAreIgnored : Prop :=
  ∀ (s : State) (bs cs : List Byte), s.status = .busy → s.inbox = [] → bs.length = cs.length →
    ((∀ off, off < 4 ∨ 24 ≤ (off - 4) % 32 → bs[off]? = cs[off]?) →
      step { s with latched := bs } = step { s with latched := cs })
    ∧ (Op.ofSelector (memRead bs 0 4) = some .rotl ∨ Op.ofSelector (memRead bs 0 4) = some .rotr →
      (∀ off, off < 4 ∨ (24 ≤ (off - 4) % 32 ∧ ¬(60 ≤ off ∧ off < 64)) → bs[off]? = cs[off]?) →
      step { s with latched := bs } = step { s with latched := cs })

/-- Bytes after the last argument word of a known selector, and all bytes from offset 4 for an unknown one, do not change the
outcome (30_encoding.md section 2; the spec's decision D7). -/
def Obligations.ExcessCommandBytesAreIgnored : Prop :=
  ∀ (s : State) (bs extra : List Byte), s.status = .busy → s.inbox = [] → 4 ≤ bs.length →
    ((∃ op : Op, memRead bs 0 4 = op.selector ∧ 4 + 32 * op.arity ≤ bs.length)
      ∨ (∀ op : Op, memRead bs 0 4 ≠ op.selector)) →
    step { s with latched := bs ++ extra } = step { s with latched := bs }

/-- The response to a command is a function of the bytes `CMD[0 .. CMD_LEN)` at the moment of `START` and of the parameters: two
machines that agree on those, whatever else they hold and whatever ran before, end with the same `STATUS`, the same `RSP_LEN` and
the same response bytes, and with the same cause if in `FAULT` (10_state.md R21). -/
def Obligations.ResponseDependsOnlyOnTheCommandAtStart : Prop :=
  ∀ s s' : State, s.status = .idle ∨ s.status = .done → s'.status = .idle ∨ s'.status = .done →
    s.inbox = [.writeReg .ctrl 1] → s'.inbox = [.writeReg .ctrl 1] →
    s.cmdLen = s'.cmdLen → (∀ off, off < s.cmdLen.toNat → s.cmdByte off = s'.cmdByte off) → s.cfg = s'.cfg →
    ∃ t t', runFor 2 s = .next t ∧ runFor 2 s' = .next t' ∧ (t.status = .done ∨ t.status = .fault) ∧ t.status = t'.status
      ∧ t.rspLen = t'.rspLen ∧ (∀ off, off < t.rspLen.toNat → t.rspByte off = t'.rspByte off)
      ∧ (t.status = .fault → t.fcause = t'.fcause)

/-- A HOST read returns the value and changes nothing (20_memory.md section 4): `CTRL` reads 0, `STATUS` reads its code, `FCAUSE` reads
its code, `RSP_LEN` reads its value in `DONE`, and in `DONE` a read below `RSP_LEN` gives the response's byte (10_state.md section 4,
70_reset_and_hazards.md section 3; the spec's decisions D3, D8, D10). `FCAUSE` is meaningful in `FAULT` only: that a read gives the
register's code in the other statuses too is the model's reading (log 25). Other reads of `RSP` and `RSP_LEN` are free values (log 4,
5). -/
def Obligations.HostReadsOnlyRecordTheirValue : Prop :=
  (∀ (s : State) (r : Reg) (rest : List Input), s.inbox = .readReg r :: rest →
    step s = .next { s with inbox := rest, outbox := s.outbox ++ [.reg r (s.readReg r)] })
  ∧ (∀ (s : State) (off : Nat) (rest : List Input), s.inbox = .readRsp off :: rest → off < 96 →
    step s = .next { s with inbox := rest, outbox := s.outbox ++ [.rspByte off (s.rspByte off)] })
  ∧ (∀ s : State, s.readReg .ctrl = 0 ∧ s.readReg .cmdLen = s.cmdLen.toNat
    ∧ s.readReg .status = (match s.status with | .idle => 0 | .busy => 1 | .done => 2 | .fault => 3)
    ∧ s.readReg .fcause = (match s.fcause with | .none => 0 | .shortCommand => 1 | .internalInvariant => 2)
    ∧ (s.status = .done → s.readReg .rspLen = s.rspLen.toNat))
  ∧ (∀ (s : State) (off : Nat) (b : Byte), s.status = .done → off < s.rspLen.toNat → (off, b) ∈ s.rsp →
    Memory.wf s.rsp → s.rspByte off = b)

/-- The command protocol: from `IDLE` or `DONE`, HOST's writes of any command of at most 260 bytes, of its length and of `START`
lead in that many steps to `BUSY` with exactly those bytes latched, and CORE's next step gives the outcome of the dispatcher on them
(70_reset_and_hazards.md section 2; the spec's decisions D3, D6). -/
def Obligations.IssuedCommandRunsToItsOutcome : Prop :=
  ∀ (s : State) (bs : List Byte), s.status = .idle ∨ s.status = .done → bs.length ≤ 260 → s.inbox = issue bs →
    ∃ t u, runFor (bs.length + 2) s = .next t ∧ t.status = .busy ∧ t.latched = bs ∧ t.cmdLen.toNat = bs.length
      ∧ t.inbox = [] ∧ t.cfg = s.cfg ∧ t.fcause = s.fcause
      ∧ runFor (bs.length + 3) s = .next u
      ∧ (match decode bs with
        | .instr i => exec i t = .next u
        | .unknownSelector _ => Answered t u [0#64]
        | .shortCommand => Faulted t u .shortCommand)

/-- Decoding the command bytes of any well-formed instruction gives that instruction, whatever bytes follow them: every operand of
every instruction at every value the encoding admits (30_encoding.md sections 1 and 2; selectors are the spec's decision D11). -/
def Obligations.DecodeInvertsEncode : Prop :=
  ∀ (i : Instr) (extra : List Byte), i.wellFormed = true → decode (encode i ++ extra) = .instr i

/-- Three commands of 95_test_vectors.md part 2, written out byte by byte, decode to the instructions they stand for. -/
def Obligations.SampleCommandsDecode : Prop :=
  decode ([0x00#8, 0x00#8, 0x00#8, 0x04#8]
      ++ List.replicate 30 0x00#8 ++ [0x00#8, 0xFA#8] ++ List.replicate 30 0x00#8 ++ [0x01#8, 0x2C#8])
    = .instr (.mul 250#64 300#64)
  ∧ decode ([0x00#8, 0x00#8, 0x00#8, 0x07#8] ++ List.replicate 30 0x00#8 ++ [0x08#8, 0x34#8])
    = .instr (.sin 2100#64)
  ∧ decode ([0x00#8, 0x00#8, 0x00#8, 0x2A#8]
      ++ List.replicate 31 0x00#8 ++ [0x05#8] ++ List.replicate 31 0x00#8 ++ [0x01#8]
      ++ List.replicate 31 0x00#8 ++ [0x02#8] ++ List.replicate 31 0x00#8 ++ [0x10#8])
    = .instr (.pdbl (.coord 5#64 1#64) 2#64 16#64)

/-- Every instruction completes in every state, with a response whose length depends on its row alone, never on its operands
or the state (30_encoding.md R76). -/
def Obligations.ResponseLengthFollowsTheSelector : Prop :=
  ∀ (i : Instr) (s : State),
    ∃ t, exec i s = .next t ∧ t.status = .done ∧ t.rspLen.toNat = 32 * i.op.resultWords

/-- No step writes the parameters, and CORE's step writes neither `CMD` nor `CMD_LEN` (10_state.md section 5,
70_reset_and_hazards.md section 3). -/
def Obligations.ParametersAndCommandBufferAreNotWrittenByCore : Prop :=
  (∀ s t : State, step s = .next t → t.cfg = s.cfg) ∧ (∀ s t : State, coreStep s = .next t → KeptByCore s t)

/-- An optional scalar and a point, written as result words and as the bytes of those words, read back as themselves; the one
exception is the finite pair of all-ones words, which reads back as `Infinity` (30_encoding.md R77). -/
def Obligations.OptionalAndPointSurviveTheWire : Prop :=
  (∀ w : U64, BitVec.ofNat 64 (memRead (abiWord w) 24 8) = w)
  ∧ (∀ v : Option U64, ∃ p q, optionWords (v.map BitVec.toNat) = [p, q] ∧ optionOfWords p q = v)
  ∧ (∀ v : Option Point, (∀ x, v = some x → x.wellFormed = true) →
      ∃ p q r, pointWords v = [p, q, r] ∧ pointOfResult p q r = v)
  ∧ (∃ p q r, pointWords (some (.coord u64Ones u64Ones)) = [p, q, r] ∧ pointOfResult p q r = some .infinity)

/-- From the moment `STATUS` is `DONE` until the next accepted `START` or reset, the response stays valid and unchanged
(70_reset_and_hazards.md section 3; the spec's decision D10). The clause on bytes is over every offset: below `RSP_LEN` it is the
spec's; at and beyond `RSP_LEN`, where the spec leaves the byte open, that two reads agree is the model's choice (log 4). -/
def Obligations.ResponseStaysUntilTheNextStart : Prop :=
  ∀ s t : State, s.status = .done → step s = .next t →
    (∀ rest, s.inbox ≠ .reset :: rest) → (∀ v rest, s.inbox = .writeReg .ctrl v :: rest → v % 2 = 0) →
    t.status = .done ∧ t.rspLen = s.rspLen ∧ ∀ off, t.rspByte off = s.rspByte off

/-- HOST's access to an offset at or beyond the end of a buffer stops, and one below it does not (20_memory.md section 1 lays out the
offsets; the stop is the model's choice, log 10). -/
def Obligations.HostAccessOutsideABufferStops : Prop :=
  (∀ (s : State) (off : Nat) (b : Byte) (rest : List Input), s.inbox = .writeCmd off b :: rest →
    (260 ≤ off → step s = .fault (.cmdOffsetAbsent off))
    ∧ (off < 260 → ∃ t, step s = .next t ∧ t.cmdByte off = b ∧ (∀ k, k ≠ off → t.cmdByte k = s.cmdByte k)
        ∧ t = { s with inbox := rest, cmd := t.cmd }))
  ∧ (∀ (s : State) (off : Nat) (rest : List Input), s.inbox = .readRsp off :: rest →
    (96 ≤ off → step s = .fault (.rspOffsetAbsent off)) ∧ (off < 96 → ∃ t, step s = .next t))

/-! ## Fixed-Point Core -/

/-- `MUL a, b`: the product, clamped to `U64_MAX`, over 100 (40_fixed_point.md R104).
Selectors, operands and the handshake are the spec's decisions D11, D13, D3; bytes beyond the response: log 4. -/
def Obligations.MulSaturatesThenDividesBy100 : Prop :=
  DecodesTo 0x04 2 (fun bs => .mul (argU64 bs 0) (argU64 bs 1))
  ∧ ∀ (a b : U64) (s : State), ∃ t, exec (.mul a b) s = .next t
      ∧ Answered s t [BitVec.ofNat 64 (min (a.toNat * b.toNat) u64Max / 100)]

/-- `DIV a, b`: 0 for a zero divisor, otherwise `a * 100`, clamped, over `b` (40_fixed_point.md R106).
Selectors, operands and the handshake are the spec's decisions D11, D13, D3; bytes beyond the response: log 4. -/
def Obligations.DivSaturatesThenDivides : Prop :=
  DecodesTo 0x05 2 (fun bs => .div (argU64 bs 0) (argU64 bs 1))
  ∧ ∀ (a b : U64) (s : State), ∃ t, exec (.div a b) s = .next t
      ∧ Answered s t [if b = 0#64 then 0#64 else BitVec.ofNat 64 (min (a.toNat * 100) u64Max / b.toNat)]

/-- `SQUARE n`: as `MUL n, n`, with its corner cases (40_fixed_point.md R108).
Selectors, operands and the handshake are the spec's decisions D11, D13, D3; bytes beyond the response: log 4. -/
def Obligations.SquareSaturatesThenDividesBy100 : Prop :=
  DecodesTo 0x02 1 (fun bs => .square (argU64 bs 0))
  ∧ ∀ (n : U64) (s : State), ∃ t w, exec (.square n) s = .next t ∧ Answered s t [w]
      ∧ w = BitVec.ofNat 64 (min (n.toNat * n.toNat) u64Max / 100)
      ∧ (n.toNat ≤ 9 → w = 0#64) ∧ (4294967296 ≤ n.toNat → w = 184467440737095516#64)

/-- `SQRT n` is the floor of the square root of `min(100 n, U64_MAX)` (40_fixed_point.md section 5: the loop's value, which the spec
marks as general knowledge and its own decision D16).
Selectors, operands and the handshake are the spec's decisions D11, D13, D3; bytes beyond the response: log 4. -/
def Obligations.SqrtIsTheFloorRootOfTheScaledValue : Prop :=
  DecodesTo 0x03 1 (fun bs => .sqrt (argU64 bs 0))
  ∧ ∀ (n : U64) (s : State), ∃ t, exec (.sqrt n) s = .next t
      ∧ Answered s t [BitVec.ofNat 64 (Nat.sqrt (min (100 * n.toNat) u64Max))]

/-- `CLAMP v, min, max` by the rule's two tests in order; with `min <= max` the result lies between them and is `v` when `v` does
(40_fixed_point.md section 6; the order, which decides `min > max`, is the spec's decision D17, log 14).
Selectors, operands and the handshake are the spec's decisions D11, D13, D3; bytes beyond the response: log 4. -/
def Obligations.ClampTestsTheLowerBoundFirst : Prop :=
  DecodesTo 0x0E 3 (fun bs => .clamp (argU64 bs 0) (argU64 bs 1) (argU64 bs 2))
  ∧ ∀ (v lo hi : U64) (s : State), ∃ t w, exec (.clamp v lo hi) s = .next t ∧ Answered s t [w]
      ∧ (v < lo → w = lo) ∧ (lo ≤ v ∧ hi < v → w = hi) ∧ (lo ≤ v ∧ v ≤ hi → w = v)
      ∧ (lo ≤ hi → lo ≤ w ∧ w ≤ hi)

/-- `LERP start, end, t`: the step is `|end - start| * min(t, 100)`, clamped, over 100, added toward or subtracted toward `end`; the
result never passes `end` (40_fixed_point.md section 7; the proportional step is the spec's decision D18).
Selectors, operands and the handshake are the spec's decisions D11, D13, D3; bytes beyond the response: log 4. -/
def Obligations.LerpStepsTowardTheEnd : Prop :=
  DecodesTo 0x06 3 (fun bs => .lerp (argU64 bs 0) (argU64 bs 1) (argU64 bs 2))
  ∧ ∀ (a b k : U64) (s : State), ∃ t w, exec (.lerp a b k) s = .next t ∧ Answered s t [w]
      ∧ (a ≤ b → w.toNat = a.toNat + min ((b.toNat - a.toNat) * min k.toNat 100) u64Max / 100 ∧ w ≤ b)
      ∧ (b < a → w.toNat = a.toNat - min ((a.toNat - b.toNat) * min k.toNat 100) u64Max / 100 ∧ b ≤ w)

/-! ## Trigonometric Engine -/

/-- `SIN` and `COS`: the table entry over 100 for the whole-degree index of the quadrant, read backwards in quadrants 1 and 3,
negated in 2 and 3, `COS` a wrapping quarter turn on; within `[-100, 100]` for every legal table (41_trig.md sections 2 to 4; the
reverse read and the angle's type are the spec's decisions D20, D21).
Selectors, operands and the handshake are the spec's decisions D11, D13, D3; bytes beyond the response: log 4. -/
def Obligations.SinAndCosFoldTheTable : Prop :=
  DecodesTo 0x07 1 (fun bs => .sin (argU64 bs 0)) ∧ DecodesTo 0x08 1 (fun bs => .cos (argU64 bs 0))
  ∧ ∀ (angle : U64) (s : State),
      (∃ t, exec (.sin angle) s = .next t
        ∧ Answered s t [BitVec.ofInt 64 (sineOf s.cfg.sinTable angle.toNat)])
      ∧ (∃ t, exec (.cos angle) s = .next t
        ∧ Answered s t [BitVec.ofInt 64 (cosineOf s.cfg.sinTable angle)])
      ∧ (s.cfg.wf = true → -100 ≤ sineOf s.cfg.sinTable angle.toNat ∧ sineOf s.cfg.sinTable angle.toNat ≤ 100)

/-! ## Geometry Engine -/

/-- `SQDIST` and `DIST`: the sum of the two squared differences at scale 100, never clamped as a sum, and the floor root of 100
times it (42_geometry.md section 2; the formulas are the spec's decision D22).
Selectors, operands and the handshake are the spec's decisions D11, D13, D3; bytes beyond the response: log 4. -/
def Obligations.SqdistAndDistMeasurePositions : Prop :=
  DecodesTo 0x09 4 (fun bs => .sqdist (argU64 bs 0) (argU64 bs 1) (argU64 bs 2) (argU64 bs 3))
  ∧ DecodesTo 0x0A 4 (fun bs => .dist (argU64 bs 0) (argU64 bs 1) (argU64 bs 2) (argU64 bs 3))
  ∧ ∀ (x1 y1 x2 y2 : U64) (s : State),
      let dx := ((x1.toNat : Int) - x2.toNat).natAbs
      let dy := ((y1.toNat : Int) - y2.toNat).natAbs
      let q := min (dx * dx) u64Max / 100 + min (dy * dy) u64Max / 100
      (∃ t, exec (.sqdist x1 y1 x2 y2) s = .next t ∧ Answered s t [BitVec.ofNat 64 q])
      ∧ (∃ t, exec (.dist x1 y1 x2 y2) s = .next t
        ∧ Answered s t [BitVec.ofNat 64 (Nat.sqrt (min (100 * q) u64Max))])

/-- `DOT` and `CROSS`: sum and difference of two signed fixed-point products, never clamped as a whole
(42_geometry.md section 3; the signed reading and rounding are the spec's decisions D15, D23).
Selectors, operands and the handshake are the spec's decisions D11, D13, D3; bytes beyond the response: log 4. -/
def Obligations.DotAndCrossCombineSignedProducts : Prop :=
  DecodesTo 0x0B 4 (fun bs => .dot (argI64 bs 0) (argI64 bs 1) (argI64 bs 2) (argI64 bs 3))
  ∧ DecodesTo 0x0D 4 (fun bs => .cross (argI64 bs 0) (argI64 bs 1) (argI64 bs 2) (argI64 bs 3))
  ∧ ∀ (aX aY bX bY : I64) (s : State),
      (∃ t, exec (.dot aX aY bX bY) s = .next t
        ∧ Answered s t [BitVec.ofInt 64 (fxProduct aX.toInt bX.toInt + fxProduct aY.toInt bY.toInt)])
      ∧ (∃ t, exec (.cross aX aY bX bY) s = .next t
        ∧ Answered s t [BitVec.ofInt 64 (fxProduct aX.toInt bY.toInt - fxProduct aY.toInt bX.toInt)])

/-- `MAG x, y`: the floor root of 100 times the dot product of the vector with itself, at most 4294967295
(42_geometry.md section 3; decisions D15, D16, D23).
Selectors, operands and the handshake are the spec's decisions D11, D13, D3; bytes beyond the response: log 4. -/
def Obligations.MagIsTheFloorRootOfTheSquaredLength : Prop :=
  DecodesTo 0x0C 2 (fun bs => .mag (argI64 bs 0) (argI64 bs 1))
  ∧ ∀ (x y : I64) (s : State), ∃ t, exec (.mag x y) s = .next t
      ∧ Answered s t [BitVec.ofNat 64 (magnitudeOf x.toInt y.toInt)]
      ∧ magnitudeOf x.toInt y.toInt ≤ 4294967295

/-- `CLAMPMAG x, y, max`: unchanged bit for bit when the magnitude is at most `max`, otherwise each component times the ratio
`max * 100 / magnitude` (42_geometry.md section 4; the order is the spec's decision D24).
Selectors, operands and the handshake are the spec's decisions D11, D13, D3; bytes beyond the response: log 4. -/
def Obligations.ClampmagRescalesOnlyLongVectors : Prop :=
  DecodesTo 0x0F 3 (fun bs => .clampmag (argI64 bs 0) (argI64 bs 1) (argU64 bs 2))
  ∧ ∀ (x y : I64) (max : U64) (s : State), ∃ t, exec (.clampmag x y max) s = .next t
      ∧ Answered s t
          (let m := magnitudeOf x.toInt y.toInt
           if m ≤ max.toNat then [x, y]
           else
             let ratio : Int := (max.toNat * 100 / m : Nat)
             [BitVec.ofInt 64 (fxProduct x.toInt ratio), BitVec.ofInt 64 (fxProduct y.toInt ratio)])

/-- `INRECT` and `INCIRC`: closed containment, the boundary counts as inside (42_geometry.md section 5; the shapes' arguments and
the comparison of squares are the spec's decisions D22, D25).
Selectors, operands and the handshake are the spec's decisions D11, D13, D3; bytes beyond the response: log 4. -/
def Obligations.RectangleAndCircleContainTheirBoundary : Prop :=
  DecodesTo 0x10 6 (fun bs =>
    .inrect (argU64 bs 0) (argU64 bs 1) (argU64 bs 2) (argU64 bs 3) (argU64 bs 4) (argU64 bs 5))
  ∧ DecodesTo 0x11 5 (fun bs => .incirc (argU64 bs 0) (argU64 bs 1) (argU64 bs 2) (argU64 bs 3) (argU64 bs 4))
  ∧ (∀ (px py minX minY maxX maxY : U64) (s : State), ∃ t, exec (.inrect px py minX minY maxX maxY) s = .next t
      ∧ Answered s t [if minX ≤ px ∧ px ≤ maxX ∧ minY ≤ py ∧ py ≤ maxY then 1#64 else 0#64])
  ∧ (∀ (px py cx cy r : U64) (s : State),
      let dx := ((px.toNat : Int) - cx.toNat).natAbs
      let dy := ((py.toNat : Int) - cy.toNat).natAbs
      ∃ t, exec (.incirc px py cx cy r) s = .next t
        ∧ Answered s t [if min (dx * dx) u64Max / 100 + min (dy * dy) u64Max / 100
            ≤ min (r.toNat * r.toNat) u64Max / 100 then 1#64 else 0#64])

/-- `VADD`, `VSUB`, `VSCALE`: component-wise, each component clamped to `i64` (42_geometry.md section 6; the spec's decisions D15,
D26).
Selectors, operands and the handshake are the spec's decisions D11, D13, D3; bytes beyond the response: log 4. -/
def Obligations.VectorAlgebraClampsEachComponent : Prop :=
  DecodesTo 0x12 4 (fun bs => .vadd (argI64 bs 0) (argI64 bs 1) (argI64 bs 2) (argI64 bs 3))
  ∧ DecodesTo 0x13 4 (fun bs => .vsub (argI64 bs 0) (argI64 bs 1) (argI64 bs 2) (argI64 bs 3))
  ∧ DecodesTo 0x14 3 (fun bs => .vscale (argI64 bs 0) (argI64 bs 1) (argI64 bs 2))
  ∧ (∀ (aX aY bX bY : I64) (s : State),
      (∃ t, exec (.vadd aX aY bX bY) s = .next t
        ∧ Answered s t [BitVec.ofInt 64 (nearestI64 (aX.toInt + bX.toInt)), BitVec.ofInt 64 (nearestI64 (aY.toInt + bY.toInt))])
      ∧ (∃ t, exec (.vsub aX aY bX bY) s = .next t
        ∧ Answered s t [BitVec.ofInt 64 (nearestI64 (aX.toInt - bX.toInt)), BitVec.ofInt 64 (nearestI64 (aY.toInt - bY.toInt))]))
  ∧ (∀ (x y k : I64) (s : State), ∃ t, exec (.vscale x y k) s = .next t
      ∧ Answered s t [BitVec.ofInt 64 (fxProduct x.toInt k.toInt), BitVec.ofInt 64 (fxProduct y.toInt k.toInt)])

/-- `VNORM x, y`: the zero vector for a zero magnitude, otherwise each component times 100, clamped, over the magnitude, truncated
toward zero (42_geometry.md section 6; the spec's decisions D15, D26).
Selectors, operands and the handshake are the spec's decisions D11, D13, D3; bytes beyond the response: log 4. -/
def Obligations.VnormDividesByTheMagnitude : Prop :=
  DecodesTo 0x15 2 (fun bs => .vnorm (argI64 bs 0) (argI64 bs 1))
  ∧ ∀ (x y : I64) (s : State), ∃ t, exec (.vnorm x y) s = .next t
      ∧ Answered s t
          (let m := magnitudeOf x.toInt y.toInt
           if m = 0 then [0#64, 0#64]
           else [BitVec.ofInt 64 ((nearestI64 (x.toInt * 100)).tdiv m), BitVec.ofInt 64 ((nearestI64 (y.toInt * 100)).tdiv m)])

/-- `VROT` rotates counter-clockwise by the engine's sine and cosine (the sense is the spec's decision D27), and `VREFL` is
`v - 2 (v.n) n` with an integer 2 (42_geometry.md section 6; decision D27).
Selectors, operands and the handshake are the spec's decisions D11, D13, D3; bytes beyond the response: log 4. -/
def Obligations.VrotAndVreflTransformDirections : Prop :=
  DecodesTo 0x16 3 (fun bs => .vrot (argI64 bs 0) (argI64 bs 1) (argU64 bs 2))
  ∧ DecodesTo 0x17 4 (fun bs => .vrefl (argI64 bs 0) (argI64 bs 1) (argI64 bs 2) (argI64 bs 3))
  ∧ (∀ (x y : I64) (angle : U64) (s : State), ∃ t, exec (.vrot x y angle) s = .next t
      ∧ Answered s t
          (let c := cosineOf s.cfg.sinTable angle
           let n := sineOf s.cfg.sinTable angle.toNat
           [BitVec.ofInt 64 (nearestI64 (fxProduct x.toInt c - fxProduct y.toInt n)),
            BitVec.ofInt 64 (nearestI64 (fxProduct x.toInt n + fxProduct y.toInt c))]))
  ∧ (∀ (vx vy nx ny : I64) (s : State), ∃ t, exec (.vrefl vx vy nx ny) s = .next t
      ∧ Answered s t
          (let k := 2 * (fxProduct vx.toInt nx.toInt + fxProduct vy.toInt ny.toInt)
           [BitVec.ofInt 64 (nearestI64 (vx.toInt - fxProduct k nx.toInt)),
            BitVec.ofInt 64 (nearestI64 (vy.toInt - fxProduct k ny.toInt))]))

/-- `INTRI`: 1 exactly when the three edge cross products are all non-negative or all non-positive; so the triangle's own vertices
are inside (42_geometry.md section 7; the arithmetic is the spec's decision D28).
Selectors, operands and the handshake are the spec's decisions D11, D13, D3; bytes beyond the response: log 4. -/
def Obligations.IntriIsTheSameSignTest : Prop :=
  DecodesTo 0x18 8 (fun bs =>
    .intri (argU64 bs 0) (argU64 bs 1) (argU64 bs 2) (argU64 bs 3) (argU64 bs 4) (argU64 bs 5) (argU64 bs 6) (argU64 bs 7))
  ∧ ∀ (px py aX aY bX bY cX cY : U64) (s : State), ∃ t w, exec (.intri px py aX aY bX bY cX cY) s = .next t
      ∧ Answered s t [w]
      ∧ (let d1 := edgeOf aX aY bX bY px py
         let d2 := edgeOf bX bY cX cY px py
         let d3 := edgeOf cX cY aX aY px py
         w = if (0 ≤ d1 ∧ 0 ≤ d2 ∧ 0 ≤ d3) ∨ (d1 ≤ 0 ∧ d2 ≤ 0 ∧ d3 ≤ 0) then 1#64 else 0#64)
      ∧ ((px, py) = (aX, aY) ∨ (px, py) = (bX, bY) ∨ (px, py) = (cX, cY) → w = 1#64)

/-! ## Number theory, modular part -/

/-- `MODEXP base, exp, modulus` is `base ^ exp mod modulus` for a modulus above 1, and 0 for modulus 1 and 0
(43_modular.md section 2; 0 for modulus 0 is the spec's decision D29).
Selectors, operands and the handshake are the spec's decisions D11, D13, D3; bytes beyond the response: log 4. -/
def Obligations.ModexpIsThePowerModuloTheModulus : Prop :=
  DecodesTo 0x01 3 (fun bs => .modexp (argU64 bs 0) (argU64 bs 1) (argU64 bs 2))
  ∧ ∀ (base exp m : U64) (s : State), ∃ t, exec (.modexp base exp m) s = .next t
      ∧ Answered s t [if m.toNat ≤ 1 then 0#64 else BitVec.ofNat 64 (base.toNat ^ exp.toNat % m.toNat)]

/-- `MODINV a, modulus`: absent when the modulus is 0 or shares a factor with `a`; otherwise present with the one `x` below the
modulus with `a x = 1` modulo it (43_modular.md section 3).
Selectors, operands and the handshake are the spec's decisions D11, D13, D3; bytes beyond the response: log 4. -/
def Obligations.ModinvIsTheUniqueInverseOrAbsent : Prop :=
  DecodesTo 0x19 2 (fun bs => .modinv (argU64 bs 0) (argU64 bs 1))
  ∧ ∀ (a m : U64) (s : State), ∃ t p x, exec (.modinv a m) s = .next t ∧ Answered s t [p, x]
      ∧ (m.toNat = 0 ∨ Nat.gcd a.toNat m.toNat ≠ 1 → p = 0#64 ∧ x = 0#64)
      ∧ (m.toNat ≠ 0 ∧ Nat.gcd a.toNat m.toNat = 1 →
          p = 1#64 ∧ x.toNat < m.toNat ∧ a.toNat * x.toNat % m.toNat = 1 % m.toNat
          ∧ ∀ y, y < m.toNat → a.toNat * y % m.toNat = 1 % m.toNat → y = x.toNat)

/-- `ISPRIME n` answers 1 exactly for 2, 3 and the odd `n` not divisible by 3 that are strong probable primes to every one of the
twelve witnesses that `n` does not divide, otherwise 0; and so 1 for every prime (43_modular.md section 4; skipping those
witnesses is the spec's decision D30).
Selectors, operands and the handshake are the spec's decisions D11, D13, D3; bytes beyond the response: log 4. -/
def Obligations.IsprimeIsTheStrongProbablePrimeTest : Prop :=
  DecodesTo 0x1A 1 (fun bs => .isprime (argU64 bs 0))
  ∧ ∀ (n : U64) (s : State), ∃ t w, exec (.isprime n) s = .next t ∧ Answered s t [w] ∧ (w = 0#64 ∨ w = 1#64)
      ∧ (w = 1#64 ↔ n.toNat = 2 ∨ n.toNat = 3 ∨ (2 ≤ n.toNat ∧ n.toNat % 2 = 1 ∧ n.toNat % 3 ≠ 0
          ∧ ∃ d r, d % 2 = 1 ∧ n.toNat - 1 = d * 2 ^ r
            ∧ ∀ a ∈ [2, 3, 5, 7, 11, 13, 17, 19, 23, 29, 31, 37], n.toNat ∣ a ∨ a ^ d % n.toNat = 1
              ∨ ∃ j, j < r ∧ a ^ (d * 2 ^ j) % n.toNat = n.toNat - 1))
      ∧ (Nat.Prime n.toNat → w = 1#64)

/-- `GCD a, b` is the greatest common divisor, and `GCD a, 0 = a` (43_modular.md R184).
Selectors, operands and the handshake are the spec's decisions D11, D13, D3; bytes beyond the response: log 4. -/
def Obligations.GcdIsTheGreatestCommonDivisor : Prop :=
  DecodesTo 0x1B 2 (fun bs => .gcd (argU64 bs 0) (argU64 bs 1))
  ∧ ∀ (a b : U64) (s : State), ∃ t, exec (.gcd a b) s = .next t
      ∧ Answered s t [BitVec.ofNat 64 (Nat.gcd a.toNat b.toNat)]

/-- `LCM a, b` is the least common multiple, clamped to `U64_MAX`, 0 if either is 0 (43_modular.md section 6; the clamp is the
spec's decision D31).
Selectors, operands and the handshake are the spec's decisions D11, D13, D3; bytes beyond the response: log 4. -/
def Obligations.LcmIsTheLeastCommonMultipleClamped : Prop :=
  DecodesTo 0x1C 2 (fun bs => .lcm (argU64 bs 0) (argU64 bs 1))
  ∧ ∀ (a b : U64) (s : State), ∃ t, exec (.lcm a b) s = .next t
      ∧ Answered s t [BitVec.ofNat 64 (min (Nat.lcm a.toNat b.toNat) u64Max)]

/-! ## Number theory, integer utilities -/

/-- `FACT n`: present with `n!` up to 20, absent above (44_integer_utils.md section 2; the width of `n` is the spec's decision
D13).
Selectors, operands and the handshake are the spec's decisions D11, D13, D3; bytes beyond the response: log 4. -/
def Obligations.FactIsTheFactorialUpTo20 : Prop :=
  DecodesTo 0x1D 1 (fun bs => .fact (argU64 bs 0))
  ∧ ∀ (n : U64) (s : State), ∃ t, exec (.fact n) s = .next t
      ∧ Answered s t (if n.toNat ≤ 20 then [1#64, BitVec.ofNat 64 n.toNat.factorial] else [0#64, 0#64])

/-- `NCK n, k`: 0 for `k > n`, otherwise the last of the running values of the rule, each the one before times `n - i`, clamped,
over `i + 1`; for `n <= 62` that is the binomial coefficient (44_integer_utils.md section 3; the order and the clamp are the spec's
decision D32, log 15).
Selectors, operands and the handshake are the spec's decisions D11, D13, D3; bytes beyond the response: log 4. -/
def Obligations.NckRunsTheMultiplicativeFormula : Prop :=
  DecodesTo 0x1E 2 (fun bs => .nck (argU64 bs 0) (argU64 bs 1))
  ∧ ∀ (n k : U64) (s : State), ∃ t v, exec (.nck n k) s = .next t ∧ Answered s t [BitVec.ofNat 64 v] ∧ v ≤ u64Max
      ∧ (n < k → v = 0)
      ∧ (k ≤ n → ∃ r : Nat → Nat, r 0 = 1 ∧ v = r (min k.toNat (n.toNat - k.toNat))
          ∧ ∀ i, i < min k.toNat (n.toNat - k.toNat) → r (i + 1) = min (r i * (n.toNat - i)) u64Max / (i + 1))
      ∧ (n.toNat ≤ 62 → v = n.toNat.choose k.toNat)

/-- `LOG2 n` is absent at 0, otherwise the `p` with `2^p <= n < 2^(p+1)` (44_integer_utils.md R196).
Selectors, operands and the handshake are the spec's decisions D11, D13, D3; bytes beyond the response: log 4. -/
def Obligations.Log2IsTheHighestSetBit : Prop :=
  DecodesTo 0x1F 1 (fun bs => .log2 (argU64 bs 0))
  ∧ ∀ (n : U64) (s : State), ∃ t q p, exec (.log2 n) s = .next t ∧ Answered s t [q, p]
      ∧ (n = 0#64 → q = 0#64 ∧ p = 0#64)
      ∧ (n ≠ 0#64 → q = 1#64 ∧ p.toNat ≤ 63 ∧ 2 ^ p.toNat ≤ n.toNat ∧ n.toNat < 2 ^ (p.toNat + 1)
          ∧ n.getLsbD p.toNat = true)

/-- `LOG10 n` is absent at 0, otherwise the `p` with `10^p <= n < 10^(p+1)`, at most 19 (44_integer_utils.md section 4; the optional
result is the spec's decision D33).
Selectors, operands and the handshake are the spec's decisions D11, D13, D3; bytes beyond the response: log 4. -/
def Obligations.Log10IsTheDecimalFloor : Prop :=
  DecodesTo 0x20 1 (fun bs => .log10 (argU64 bs 0))
  ∧ ∀ (n : U64) (s : State), ∃ t q p, exec (.log10 n) s = .next t ∧ Answered s t [q, p]
      ∧ (n = 0#64 → q = 0#64 ∧ p = 0#64)
      ∧ (n ≠ 0#64 → q = 1#64 ∧ p.toNat ≤ 19 ∧ 10 ^ p.toNat ≤ n.toNat ∧ n.toNat < 10 ^ (p.toNat + 1))

/-- `POPCNT n` counts the set bits and `BITREV n` reverses the order of the 64 bits (44_integer_utils.md section 5; the meanings are
the spec's decision D33).
Selectors, operands and the handshake are the spec's decisions D11, D13, D3; bytes beyond the response: log 4. -/
def Obligations.PopcntCountsAndBitrevReverses : Prop :=
  DecodesTo 0x21 1 (fun bs => .popcnt (argU64 bs 0)) ∧ DecodesTo 0x22 1 (fun bs => .bitrev (argU64 bs 0))
  ∧ ∀ (n : U64) (s : State),
      (∃ t, exec (.popcnt n) s = .next t
        ∧ Answered s t [BitVec.ofNat 64 (Finset.univ.filter (fun i : Fin 64 => n.getLsbD i.val = true)).card])
      ∧ (∃ t w, exec (.bitrev n) s = .next t ∧ Answered s t [w]
        ∧ ∀ i, i < 64 → w.getLsbD i = n.getLsbD (63 - i))

/-- `PHI n` is Euler's totient, 0 at 0 (44_integer_utils.md section 6; the algorithm is marked general knowledge there, the value at 0 is
the spec's decision D34).
Selectors, operands and the handshake are the spec's decisions D11, D13, D3; bytes beyond the response: log 4. -/
def Obligations.PhiIsEulersTotient : Prop :=
  DecodesTo 0x23 1 (fun bs => .phi (argU64 bs 0))
  ∧ ∀ (n : U64) (s : State), ∃ t, exec (.phi n) s = .next t
      ∧ Answered s t [BitVec.ofNat 64 (Nat.totient n.toNat)]

/-- `ROTL` and `ROTR` move bit `i` by the count modulo 64, up and down, around the 64 bits (44_integer_utils.md section 7; the
reduced count is the spec's decision D35).
Selectors, operands and the handshake are the spec's decisions D11, D13, D3; bytes beyond the response: log 4. -/
def Obligations.RotatesMoveBitsAround : Prop :=
  DecodesTo 0x24 2 (fun bs => .rotl (argU64 bs 0) (argU32 bs 1))
  ∧ DecodesTo 0x25 2 (fun bs => .rotr (argU64 bs 0) (argU32 bs 1))
  ∧ ∀ (x : U64) (n : U32) (s : State),
      (∃ t w, exec (.rotl x n) s = .next t ∧ Answered s t [w]
        ∧ ∀ i, i < 64 → w.getLsbD ((i + n.toNat) % 64) = x.getLsbD i)
      ∧ (∃ t w, exec (.rotr x n) s = .next t ∧ Answered s t [w]
        ∧ ∀ i, i < 64 → w.getLsbD i = x.getLsbD ((i + n.toNat) % 64))

/-- `CTEQ a, b` answers 1 exactly when the two payloads are equal (44_integer_utils.md section 8; the operands are the spec's decision
D36).
Selectors, operands and the handshake are the spec's decisions D11, D13, D3; bytes beyond the response: log 4. -/
def Obligations.CteqIsEqualityOfThePayloads : Prop :=
  DecodesTo 0x26 2 (fun bs => .cteq (argU64 bs 0) (argU64 bs 1))
  ∧ ∀ (a b : U64) (s : State), ∃ t, exec (.cteq a b) s = .next t
      ∧ Answered s t [if a = b then 1#64 else 0#64]

/-- `CLMUL a, b`: bit `k` of the 128-bit value, high word first, is the parity of the pairs of set bits whose indices add up to `k`; bit
127 is 0 (44_integer_utils.md section 9; the word order is the spec's decision D37).
Selectors, operands and the handshake are the spec's decisions D11, D13, D3; bytes beyond the response: log 4. -/
def Obligations.ClmulIsTheCarrylessProduct : Prop :=
  DecodesTo 0x27 2 (fun bs => .clmul (argU64 bs 0) (argU64 bs 1))
  ∧ ∀ (a b : U64) (s : State), ∃ t hi lo, exec (.clmul a b) s = .next t ∧ Answered s t [hi, lo]
      ∧ hi.getLsbD 63 = false
      ∧ ∀ k, k < 128 → ((hi ++ lo).getLsbD k = true
          ↔ ((List.range (k + 1)).countP (fun i => a.getLsbD (k - i) && b.getLsbD i)) % 2 = 1)

/-! ## Stream generator, curve, trajectory -/

/-- `RNG seed`: the three xor-shifts of the seed (1 for a zero seed), times the multiplier modulo 2^64; with an odd multiplier the
result is never 0 (46_stream_generator.md section with R240 to R245; shifts, multiplier and result form are the spec's decision D38,
the multiplier an open parameter, log 7).
Selectors, operands and the handshake are the spec's decisions D11, D13, D3; bytes beyond the response: log 4. -/
def Obligations.RngShiftsMultipliesAndNeverAnswersZero : Prop :=
  DecodesTo 0x28 1 (fun bs => .rng (argU64 bs 0))
  ∧ ∀ (seed : U64) (s : State), ∃ t w, exec (.rng seed) s = .next t ∧ Answered s t [w]
      ∧ (∃ x0 x1 x2 x3 : U64, x0 = (if seed = 0#64 then 1#64 else seed) ∧ x1 = x0 ^^^ x0 >>> 12
          ∧ x2 = x1 ^^^ x1 <<< 25 ∧ x3 = x2 ^^^ x2 >>> 27 ∧ w = x3 * s.cfg.rngMult)
      ∧ (s.cfg.rngMult.getLsbD 0 = true → w ≠ 0#64)

/-- `PDBL`: `Infinity` for `Infinity`, for raw `y = 0` and for modulus 0; absent when `2y` has no inverse; otherwise the reduced
point that the tangent slope gives, in the ring of integers modulo `m` (45_elliptic_curve.md section 2; the coordinate formulas
are marked general knowledge there).
Selectors, operands and the handshake are the spec's decisions D11, D13, D3; bytes beyond the response: log 4. -/
def Obligations.PdblFollowsTheTangent : Prop :=
  DecodesTo 0x2A 4 (fun bs => .pdbl (argPoint bs 0) (argU64 bs 2) (argU64 bs 3))
  ∧ (∀ (a m : U64) (s : State), ∃ t, exec (.pdbl .infinity a m) s = .next t ∧ Answered s t [1#64, u64Ones, u64Ones])
  ∧ (∀ (x y a m : U64) (s : State), ∃ t p q r, exec (.pdbl (.coord x y) a m) s = .next t ∧ Answered s t [p, q, r]
      ∧ (y = 0#64 ∨ m = 0#64 → p = 1#64 ∧ q = u64Ones ∧ r = u64Ones)
      ∧ (y ≠ 0#64 ∧ m ≠ 0#64 → Nat.gcd (2 * y.toNat) m.toNat ≠ 1 → p = 0#64 ∧ q = 0#64 ∧ r = 0#64)
      ∧ (y ≠ 0#64 ∧ m ≠ 0#64 → Nat.gcd (2 * y.toNat) m.toNat = 1 →
          p = 1#64 ∧ q.toNat < m.toNat ∧ r.toNat < m.toNat
          ∧ ∃ lam : ZMod m.toNat, lam * (2 * (y.toNat : ZMod m.toNat)) = 3 * (x.toNat : ZMod m.toNat) ^ 2 + (a.toNat : ZMod m.toNat)
            ∧ (q.toNat : ZMod m.toNat) = lam ^ 2 - 2 * (x.toNat : ZMod m.toNat)
            ∧ (r.toNat : ZMod m.toNat) = lam * ((x.toNat : ZMod m.toNat) - (q.toNat : ZMod m.toNat)) - (y.toNat : ZMod m.toNat)))

/-- `PADD`: `Infinity` is the identity on either side, the other operand passing through unreduced; equal raw points double; equal raw
`x` with unequal `y` give `Infinity`; a difference of `x` without an inverse (modulus 0 among them) is absent; otherwise the
reduced point that the secant slope gives (45_elliptic_curve.md section 3; raw tests are the spec's decision D39, the coordinate
formulas are marked general knowledge).
Selectors, operands and the handshake are the spec's decisions D11, D13, D3; bytes beyond the response: log 4. -/
def Obligations.PaddFollowsTheSecant : Prop :=
  DecodesTo 0x29 6 (fun bs => .padd (argPoint bs 0) (argPoint bs 2) (argU64 bs 4) (argU64 bs 5))
  ∧ (∀ (q : Point) (a m : U64) (s : State),
      (∃ t, exec (.padd .infinity q a m) s = .next t ∧ Answered s t (1#64 :: q.words))
      ∧ (∃ t, exec (.padd q .infinity a m) s = .next t ∧ Answered s t (1#64 :: q.words)))
  ∧ (∀ (x y a m : U64) (s : State), exec (.padd (.coord x y) (.coord x y) a m) s = exec (.pdbl (.coord x y) a m) s)
  ∧ (∀ (x y1 y2 a m : U64) (s : State), y1 ≠ y2 →
      ∃ t, exec (.padd (.coord x y1) (.coord x y2) a m) s = .next t ∧ Answered s t [1#64, u64Ones, u64Ones])
  ∧ (∀ (x1 y1 x2 y2 a m : U64) (s : State), x1 ≠ x2 →
      ∃ t p q r, exec (.padd (.coord x1 y1) (.coord x2 y2) a m) s = .next t ∧ Answered s t [p, q, r]
      ∧ (m = 0#64 ∨ Int.gcd ((x2.toNat : Int) - x1.toNat) m.toNat ≠ 1 → p = 0#64 ∧ q = 0#64 ∧ r = 0#64)
      ∧ (m ≠ 0#64 ∧ Int.gcd ((x2.toNat : Int) - x1.toNat) m.toNat = 1 →
          p = 1#64 ∧ q.toNat < m.toNat ∧ r.toNat < m.toNat
          ∧ ∃ lam : ZMod m.toNat,
            lam * ((x2.toNat : ZMod m.toNat) - (x1.toNat : ZMod m.toNat)) = (y2.toNat : ZMod m.toNat) - (y1.toNat : ZMod m.toNat)
            ∧ (q.toNat : ZMod m.toNat) = lam ^ 2 - (x1.toNat : ZMod m.toNat) - (x2.toNat : ZMod m.toNat)
            ∧ (r.toNat : ZMod m.toNat) = lam * ((x1.toNat : ZMod m.toNat) - (q.toNat : ZMod m.toNat)) - (y1.toNat : ZMod m.toNat)))

/-- The curve operations stay on the curve: for operands on `y^2 = x^3 + a x + b` modulo `m`, whatever point `PDBL` or `PADD`
answers lies on it too, for every modulus (45_elliptic_curve.md sections 1 to 4; the formulas are marked general knowledge). -/
def Obligations.CurveOperationsStayOnTheCurve : Prop :=
  ∀ (p q : Point) (a m : U64) (b : ZMod m.toNat) (s : State),
    PointOnCurve m.toNat (a.toNat : ZMod m.toNat) b p →
    (∃ t res, exec (.pdbl p a m) s = .next t ∧ Answered s t (pointWords res)
      ∧ ∀ v, res = some v → PointOnCurve m.toNat (a.toNat : ZMod m.toNat) b v)
    ∧ (PointOnCurve m.toNat (a.toNat : ZMod m.toNat) b q →
      ∃ t res, exec (.padd p q a m) s = .next t ∧ Answered s t (pointWords res)
        ∧ ∀ v, res = some v → PointOnCurve m.toNat (a.toNat : ZMod m.toNat) b v)

/-- `PROJ`: `(I64_MAX, 0)` for a zero cosine; otherwise the truncated tangent and, by the denominator `2 v0^2 cos^2` in the rule's
grouping, `I64_MIN` when it is 0 or the truncated quotient of minus the gravity (47_trajectory.md; types and grouping are the spec's
decision D40).
Selectors, operands and the handshake are the spec's decisions D11, D13, D3; bytes beyond the response: log 4. -/
def Obligations.ProjComposesTheTrajectory : Prop :=
  DecodesTo 0x2B 3 (fun bs => .proj (argU64 bs 0) (argI64 bs 1) (argI64 bs 2))
  ∧ ∀ (angle : U64) (v0 g : I64) (s : State), ∃ t, exec (.proj angle v0 g) s = .next t
      ∧ Answered s t
          (let c := cosineOf s.cfg.sinTable angle
           let n := sineOf s.cfg.sinTable angle.toNat
           let den := fxProduct (nearestI64 (2 * fxProduct v0.toInt v0.toInt)) (fxProduct c c)
           if c = 0 then [0x7FFFFFFFFFFFFFFF#64, 0#64]
           else [BitVec.ofInt 64 (nearestI64 ((nearestI64 (n * 100)).tdiv c)),
                 if den = 0 then 0x8000000000000000#64
                 else BitVec.ofInt 64 (nearestI64 ((nearestI64 (nearestI64 (-g.toInt) * 100)).tdiv den))])
end

