-- ==== Sys2Proof/Laws/Arith.lean ====
section
/-! SUPPORT. The saturating primitives as minima and maxima, and their bounds. -/

namespace Sys2Proof.Machine

/-- `satu` of a natural number is the smaller of it and `U64_MAX`. -/
@[simp] theorem satu_natCast (n : Nat) : satu (n : Int) = min n u64Max := by
  unfold satu
  split
  · omega
  · split <;> omega

theorem satu_mul_natCast (a b : Nat) : satu ((a : Int) * b) = min (a * b) u64Max := by
  rw [← Int.natCast_mul, satu_natCast]

theorem satu_le (v : Int) : satu v ≤ u64Max := by
  unfold satu
  split
  · omega
  · split <;> omega

/-- `sati` is the nearest integer in `i64`. -/
theorem sati_eq_max_min (v : Int) : sati v = max i64Min (min v i64Max) := by
  unfold sati
  simp only [i64Min, i64Max]
  split
  · omega
  · split <;> omega

theorem sati_bounds (v : Int) : i64Min ≤ sati v ∧ sati v ≤ i64Max := by
  rw [sati_eq_max_min]
  simp only [i64Min, i64Max] at *
  omega

/-- A value inside `i64` is not changed by `sati`. -/
theorem sati_of_mem {v : Int} (h1 : i64Min ≤ v) (h2 : v ≤ i64Max) : sati v = v := by
  rw [sati_eq_max_min]
  simp only [i64Min, i64Max] at *
  omega

theorem fxMul_eq (a b : Nat) : fxMul a b = min (a * b) u64Max / 100 := by
  rw [fxMul, satu_mul_natCast]

theorem fxDiv_eq {b : Nat} (h : b ≠ 0) (a : Nat) : fxDiv a b = min (a * 100) u64Max / b := by
  have := satu_mul_natCast a 100
  simp only [Nat.cast_ofNat] at this
  rw [fxDiv, if_neg h, this]

/-- A signed fixed-point product is at most a hundredth of the `i64` bounds. -/
theorem smul_bounds (a b : Int) : -92233720368547758 ≤ smul a b ∧ smul a b ≤ 92233720368547758 := by
  have h := sati_bounds (a * b)
  rw [smul]
  generalize sati (a * b) = v at h
  constructor
  · have := Int.tdiv_le_tdiv (a := i64Min) (b := v) (c := 100) (by omega) h.1
    exact le_trans (by decide) this
  · have := Int.tdiv_le_tdiv (a := v) (b := i64Max) (c := 100) (by omega) h.2
    exact le_trans this (by decide)

end Sys2Proof.Machine
end

