-- ==== Sys2Proof/Laws/Codec.lean ====
section
/-! SUPPORT. The word codec both ways: big-endian bytes and numbers, and the words of a command. -/

namespace Sys2Proof

@[simp] theorem beBytes_length (n v : Nat) : (beBytes n v).length = n := by
  induction n with
  | zero => rfl
  | succ n ih => simp [beBytes, ih]

@[simp] theorem abiWord_length (w : U64) : (abiWord w).length = 32 := by
  simp [abiWord]

theorem beNat_append (bs cs : List Byte) : beNat (bs ++ cs) = beNat bs * 256 ^ cs.length + beNat cs := by
  have h (acc : Nat) (cs : List Byte) :
      cs.foldl (fun acc b => acc * 256 + b.toNat) acc = acc * 256 ^ cs.length + beNat cs := by
    induction cs generalizing acc with
    | nil => simp [beNat]
    | cons c cs ih =>
      simp only [beNat, List.foldl_cons, List.length_cons] at ih ⊢
      rw [ih, ih (0 * 256 + c.toNat)]
      ring
  rw [beNat, List.foldl_append, h]
  rfl

theorem beNat_cons (b : Byte) (bs : List Byte) : beNat (b :: bs) = b.toNat * 256 ^ bs.length + beNat bs := by
  have := beNat_append [b] bs
  simpa [beNat] using this

/-- Writing a number in `n` bytes and reading them gives its low `n` bytes' value. -/
theorem beNat_beBytes (n v : Nat) : beNat (beBytes n v) = v % 256 ^ n := by
  induction n with
  | zero => simp [beBytes, beNat, Nat.mod_one]
  | succ n ih =>
    have h8 : (BitVec.ofNat 8 (v / 256 ^ n)).toNat = v / 256 ^ n % 256 := BitVec.toNat_ofNat _ _
    have hm : v % (256 ^ n * 256) = v % 256 ^ n + 256 ^ n * (v / 256 ^ n % 256) := Nat.mod_mul
    rw [beBytes, beNat_cons, ih, beBytes_length, h8, pow_succ, hm]
    ring

/-- Reading inside an appended tail. -/
theorem memRead_append_right (bs cs : List Byte) (off n : Nat) :
    memRead (bs ++ cs) (bs.length + off) n = memRead cs off n := by
  unfold memRead
  rw [List.drop_append, List.drop_eq_nil_of_le (by omega), Nat.add_sub_cancel_left, List.nil_append]

/-- Reading inside the head of an append. -/
theorem memRead_append_left {bs : List Byte} {off n : Nat} (h : off + n ≤ bs.length) (cs : List Byte) :
    memRead (bs ++ cs) off n = memRead bs off n := by
  unfold memRead
  rw [List.drop_append_of_le_length (by omega), List.take_append_of_le_length (by simp; omega)]

/-- The payload of a word reads back. -/
theorem memRead_abiWord (w : U64) : memRead (abiWord w) 24 8 = w.toNat := by
  have h : (abiWord w).drop 24 = beBytes 8 w.toNat := by simp [abiWord]
  rw [memRead, h, List.take_of_length_le (by simp), beNat_beBytes, Nat.mod_eq_of_lt]
  exact w.isLt

/-- The low four bytes of a word are the low half of its payload. -/
theorem memRead_abiWord_low (w : U64) : memRead (abiWord w) 28 4 = w.toNat % 2 ^ 32 := by
  have h : (abiWord w).drop 28 = beBytes 4 w.toNat := by simp [abiWord, beBytes]
  rw [memRead, h, List.take_of_length_le (by simp), beNat_beBytes,
    show (256 : Nat) ^ 4 = 2 ^ 32 by norm_num]

theorem length_flatMap_abiWord (ws : List U64) : (ws.flatMap abiWord).length = 32 * ws.length := by
  induction ws with
  | nil => rfl
  | cons w ws ih => simp [ih, abiWord_length]; omega

theorem encode_length (i : Instr) : (encode i).length = 4 + 32 * i.args.length := by
  simp only [encode, List.length_append, beBytes_length, length_flatMap_abiWord]

/-- The selector's four bytes read back as the selector, whatever follows. -/
theorem memRead_selector (op : Op) (rest : List Byte) : memRead (beBytes 4 op.selector ++ rest) 0 4 = op.selector := by
  rw [memRead_append_left (by simp), memRead, List.drop_zero, List.take_of_length_le (by simp), beNat_beBytes]
  exact Nat.mod_eq_of_lt (by cases op <;> decide)

/-- Each operation is found by its own selector. -/
theorem ofSelector_selector (op : Op) : Op.ofSelector op.selector = some op := by
  cases op <;> rfl

/-- An operation found by a selector has that selector. -/
theorem selector_of_ofSelector {sel : Nat} {op : Op} (h : Op.ofSelector sel = some op) : op.selector = sel := by
  simpa using List.find?_some h

/-- A selector names an operation exactly when it lies in the map's range. -/
theorem ofSelector_eq_none_iff (sel : Nat) : Op.ofSelector sel = none ↔ sel < 0x01 ∨ 0x2B < sel := by
  constructor
  · intro h
    by_contra hc
    have hall : ∀ k : Fin 44, 1 ≤ k.val → Op.ofSelector k.val ≠ none := by decide
    exact hall ⟨sel, by omega⟩ (by simp only; omega) h
  · intro h
    cases ho : Op.ofSelector sel with
    | none => rfl
    | some op =>
      have hs := selector_of_ofSelector ho
      have hr : 1 ≤ op.selector ∧ op.selector ≤ 43 := by cases op <;> decide
      omega

/-- All that decoding can answer, and when. -/
theorem decode_cases (bs : List Byte) :
    (decode bs = .shortCommand ∧ bs.length < 4)
    ∨ (decode bs = .unknownSelector (memRead bs 0 4) ∧ 4 ≤ bs.length ∧ Op.ofSelector (memRead bs 0 4) = none)
    ∨ (∃ op, Op.ofSelector (memRead bs 0 4) = some op ∧ 4 ≤ bs.length
        ∧ ((decode bs = .shortCommand ∧ bs.length < 4 + 32 * op.arity)
          ∨ (decode bs = .instr (op.build bs) ∧ 4 + 32 * op.arity ≤ bs.length))) := by
  unfold decode
  split
  · exact .inl ⟨rfl, ‹_›⟩
  · rename_i h
    have h4 : 4 ≤ bs.length := by omega
    cases ho : Op.ofSelector (memRead bs 0 4) with
    | none => exact .inr (.inl ⟨rfl, h4, rfl⟩)
    | some op =>
      refine .inr (.inr ⟨op, rfl, h4, ?_⟩)
      by_cases hl : bs.length < 4 + 32 * op.arity
      · exact .inl ⟨by simp [hl], hl⟩
      · exact .inr ⟨by simp [hl], by omega⟩

end Sys2Proof
end

