-- ==== Sys2Proof/Laws/Memory.lean ====
section
/-! SUPPORT. What the buffer operations do: reads after writes and after a block, and the canonical form, which every operation
keeps. -/

namespace Sys2Proof.Machine

@[simp] theorem Memory.read?_nil (a : Nat) : Memory.read? [] a = none := rfl

theorem Memory.read?_cons (k a : Nat) (b : Byte) (m : Memory) :
    Memory.read? ((k, b) :: m) a = if k = a then some b else Memory.read? m a := rfl

/-- A read after a write gives the byte written there and leaves every other offset alone. -/
theorem Memory.read?_write (m : Memory) (a k : Nat) (b : Byte) :
    (m.write a b).read? k = if k = a then some b else m.read? k := by
  induction m with
  | nil => simp [Memory.write, Memory.read?, eq_comm]
  | cons p m ih =>
    obtain ⟨j, c⟩ := p
    simp only [Memory.write]
    split
    · simp only [Memory.read?, eq_comm]
    · split
      · subst_vars
        simp only [Memory.read?]
        split <;> simp_all [eq_comm]
      · simp only [Memory.read?, ih]
        split <;> split <;> simp_all

@[simp] theorem Memory.read?_write_self (m : Memory) (a : Nat) (b : Byte) : (m.write a b).read? a = some b := by
  simp [Memory.read?_write]

theorem Memory.read?_write_of_ne {k a : Nat} (h : k ≠ a) (m : Memory) (b : Byte) :
    (m.write a b).read? k = m.read? k := by
  simp [Memory.read?_write, h]

/-- The offsets a write lists are the written one and those listed before. -/
theorem Memory.mem_write {m : Memory} {a : Nat} {b : Byte} {p : Nat × Byte} (h : p ∈ m.write a b) :
    p = (a, b) ∨ p ∈ m := by
  induction m with
  | nil => simpa [Memory.write] using h
  | cons q m ih =>
    obtain ⟨j, c⟩ := q
    simp only [Memory.write] at h
    split at h
    · simpa using h
    · split at h
      · rcases List.mem_cons.1 h with h | h
        · exact .inl h
        · exact .inr (List.mem_cons_of_mem _ h)
      · rcases List.mem_cons.1 h with h | h
        · exact .inr (h ▸ List.mem_cons_self)
        · exact (ih h).imp id (List.mem_cons_of_mem _)

theorem Memory.wf_nil : Memory.wf [] := List.Pairwise.nil

/-- A write keeps the canonical form. -/
theorem Memory.wf_write {m : Memory} (h : Memory.wf m) (a : Nat) (b : Byte) : Memory.wf (m.write a b) := by
  induction m with
  | nil => exact List.pairwise_singleton _ _
  | cons q m ih =>
    obtain ⟨j, c⟩ := q
    obtain ⟨hj, hm⟩ := List.pairwise_cons.1 h
    simp only [Memory.write]
    split
    · rename_i hlt
      refine List.pairwise_cons.2 ⟨fun p hp => ?_, h⟩
      rcases List.mem_cons.1 hp with rfl | hp
      · exact hlt
      · exact hlt.trans (hj p hp)
    · split
      · rename_i heq
        exact List.pairwise_cons.2 ⟨fun p hp => heq ▸ hj p hp, hm⟩
      · rename_i hnlt hne
        refine List.pairwise_cons.2 ⟨fun p hp => ?_, ih hm⟩
        rcases Memory.mem_write hp with rfl | hp
        · exact lt_of_le_of_ne (Nat.le_of_not_lt hnlt) (Ne.symm hne)
        · exact hj p hp

/-- A write inside the buffer keeps every offset inside it. -/
theorem Memory.below_write {cap : Nat} {m : Memory} (h : Memory.below cap m) {a : Nat} (ha : a < cap) (b : Byte) :
    Memory.below cap (m.write a b) := by
  intro p hp
  rcases Memory.mem_write hp with rfl | hp
  · exact ha
  · exact h p hp

@[simp] theorem Memory.block_nil (off : Nat) : Memory.block off [] = [] := rfl

/-- Reading a block gives its byte at that place. -/
theorem Memory.read?_block (bs : List Byte) (off a : Nat) :
    (Memory.block off bs).read? a = if off ≤ a then bs[a - off]? else none := by
  induction bs generalizing off with
  | nil => simp
  | cons b bs ih =>
    simp only [Memory.block, Memory.read?_cons, ih]
    split
    · rename_i h
      subst h
      simp
    · rename_i h
      split
      · rename_i h2
        rw [if_pos (by omega), show a - off = (a - (off + 1)) + 1 by omega]
        simp
      · rename_i h2
        rw [if_neg (by omega)]

/-- A block lists exactly its own offsets. -/
theorem Memory.map_fst_block (bs : List Byte) (off : Nat) :
    (Memory.block off bs).map Prod.fst = List.range' off bs.length := by
  induction bs generalizing off with
  | nil => simp
  | cons b bs ih => simp [Memory.block, ih, List.range'_succ]

/-- A block is canonical. -/
theorem Memory.wf_block (bs : List Byte) (off : Nat) : Memory.wf (Memory.block off bs) := by
  have h : ((Memory.block off bs).map Prod.fst).Pairwise (· < ·) := by
    rw [Memory.map_fst_block]
    exact List.pairwise_lt_range'
  exact List.pairwise_map.1 h

/-- A canonical buffer gives back each byte it lists. -/
theorem Memory.read?_of_mem {m : Memory} (h : Memory.wf m) {a : Nat} {b : Byte} (hm : (a, b) ∈ m) :
    m.read? a = some b := by
  induction m with
  | nil => simp at hm
  | cons p m ih =>
    obtain ⟨k, c⟩ := p
    obtain ⟨hk, hw⟩ := List.pairwise_cons.1 h
    rcases List.mem_cons.1 hm with heq | hm
    · cases heq
      simp [Memory.read?_cons]
    · have hlt : k < a := hk (a, b) hm
      rw [Memory.read?_cons, if_neg (by omega)]
      exact ih hw hm

/-- Writing one byte of `CMD` changes that byte alone. -/
theorem State.cmdByte_writeCmd (s : State) (a k : Nat) (b : Byte) :
    (s.writeCmd a b).cmdByte k = if k = a then b else s.cmdByte k := by
  simp only [State.cmdByte, State.writeCmd, Memory.read?_write]
  split <;> rfl

/-- The buffers right after reset have the canonical form. -/
theorem State.reset_memory_wf : Memory.wf State.reset.cmd ∧ Memory.wf State.reset.rsp :=
  ⟨Memory.wf_nil, Memory.wf_nil⟩

end Sys2Proof.Machine
end

