-- ==== Sys2Proof/Laws/State.lean ====
section
/-! SUPPORT. One lemma per field per update of the state: no later proof unfolds a record update. -/

namespace Sys2Proof.Machine

/-! ### `State.respond` -/

@[simp] theorem State.respond_cfg (ws : List U64) (s : State) : (s.respond ws).cfg = s.cfg := rfl
@[simp] theorem State.respond_status (ws : List U64) (s : State) : (s.respond ws).status = .done := rfl
@[simp] theorem State.respond_cmdLen (ws : List U64) (s : State) : (s.respond ws).cmdLen = s.cmdLen := rfl
@[simp] theorem State.respond_rspLen (ws : List U64) (s : State) : (s.respond ws).rspLen = BitVec.ofNat 7 (32 * ws.length) := rfl
@[simp] theorem State.respond_fcause (ws : List U64) (s : State) : (s.respond ws).fcause = s.fcause := rfl
@[simp] theorem State.respond_cmd (ws : List U64) (s : State) : (s.respond ws).cmd = s.cmd := rfl
@[simp] theorem State.respond_rsp (ws : List U64) (s : State) : (s.respond ws).rsp = Memory.block 0 (ws.flatMap abiWord) := rfl
@[simp] theorem State.respond_latched (ws : List U64) (s : State) : (s.respond ws).latched = [] := rfl
@[simp] theorem State.respond_cmdEpoch (ws : List U64) (s : State) : (s.respond ws).cmdEpoch = s.cmdEpoch := rfl
@[simp] theorem State.respond_rspEpoch (ws : List U64) (s : State) : (s.respond ws).rspEpoch = s.rspEpoch + 1 := rfl
@[simp] theorem State.respond_inbox (ws : List U64) (s : State) : (s.respond ws).inbox = s.inbox := rfl
@[simp] theorem State.respond_outbox (ws : List U64) (s : State) : (s.respond ws).outbox = s.outbox := rfl

/-! ### `State.takeFault` -/

@[simp] theorem State.takeFault_cfg (c : Cause) (s : State) : (s.takeFault c).cfg = s.cfg := rfl
@[simp] theorem State.takeFault_status (c : Cause) (s : State) : (s.takeFault c).status = .fault := rfl
@[simp] theorem State.takeFault_cmdLen (c : Cause) (s : State) : (s.takeFault c).cmdLen = s.cmdLen := rfl
@[simp] theorem State.takeFault_rspLen (c : Cause) (s : State) : (s.takeFault c).rspLen = 0 := rfl
@[simp] theorem State.takeFault_fcause (c : Cause) (s : State) : (s.takeFault c).fcause = c := rfl
@[simp] theorem State.takeFault_cmd (c : Cause) (s : State) : (s.takeFault c).cmd = s.cmd := rfl
@[simp] theorem State.takeFault_rsp (c : Cause) (s : State) : (s.takeFault c).rsp = [] := rfl
@[simp] theorem State.takeFault_latched (c : Cause) (s : State) : (s.takeFault c).latched = [] := rfl
@[simp] theorem State.takeFault_cmdEpoch (c : Cause) (s : State) : (s.takeFault c).cmdEpoch = s.cmdEpoch := rfl
@[simp] theorem State.takeFault_rspEpoch (c : Cause) (s : State) : (s.takeFault c).rspEpoch = s.rspEpoch + 1 := rfl
@[simp] theorem State.takeFault_inbox (c : Cause) (s : State) : (s.takeFault c).inbox = s.inbox := rfl
@[simp] theorem State.takeFault_outbox (c : Cause) (s : State) : (s.takeFault c).outbox = s.outbox := rfl

/-! ### `State.latch` -/

@[simp] theorem State.latch_cfg (bs : List Byte) (s : State) : (s.latch bs).cfg = s.cfg := rfl
@[simp] theorem State.latch_status (bs : List Byte) (s : State) : (s.latch bs).status = .busy := rfl
@[simp] theorem State.latch_cmdLen (bs : List Byte) (s : State) : (s.latch bs).cmdLen = s.cmdLen := rfl
@[simp] theorem State.latch_rspLen (bs : List Byte) (s : State) : (s.latch bs).rspLen = 0 := rfl
@[simp] theorem State.latch_fcause (bs : List Byte) (s : State) : (s.latch bs).fcause = s.fcause := rfl
@[simp] theorem State.latch_cmd (bs : List Byte) (s : State) : (s.latch bs).cmd = s.cmd := rfl
@[simp] theorem State.latch_rsp (bs : List Byte) (s : State) : (s.latch bs).rsp = [] := rfl
@[simp] theorem State.latch_latched (bs : List Byte) (s : State) : (s.latch bs).latched = bs := rfl
@[simp] theorem State.latch_cmdEpoch (bs : List Byte) (s : State) : (s.latch bs).cmdEpoch = s.cmdEpoch := rfl
@[simp] theorem State.latch_rspEpoch (bs : List Byte) (s : State) : (s.latch bs).rspEpoch = s.rspEpoch + 1 := rfl
@[simp] theorem State.latch_inbox (bs : List Byte) (s : State) : (s.latch bs).inbox = s.inbox := rfl
@[simp] theorem State.latch_outbox (bs : List Byte) (s : State) : (s.latch bs).outbox = s.outbox := rfl

/-! ### `State.applyReset` -/

@[simp] theorem State.applyReset_cfg (s : State) : (s.applyReset).cfg = s.cfg := rfl
@[simp] theorem State.applyReset_status (s : State) : (s.applyReset).status = .idle := rfl
@[simp] theorem State.applyReset_cmdLen (s : State) : (s.applyReset).cmdLen = 0 := rfl
@[simp] theorem State.applyReset_rspLen (s : State) : (s.applyReset).rspLen = 0 := rfl
@[simp] theorem State.applyReset_fcause (s : State) : (s.applyReset).fcause = .none := rfl
@[simp] theorem State.applyReset_cmd (s : State) : (s.applyReset).cmd = [] := rfl
@[simp] theorem State.applyReset_rsp (s : State) : (s.applyReset).rsp = [] := rfl
@[simp] theorem State.applyReset_latched (s : State) : (s.applyReset).latched = [] := rfl
@[simp] theorem State.applyReset_cmdEpoch (s : State) : (s.applyReset).cmdEpoch = s.cmdEpoch + 1 := rfl
@[simp] theorem State.applyReset_rspEpoch (s : State) : (s.applyReset).rspEpoch = s.rspEpoch + 1 := rfl
@[simp] theorem State.applyReset_inbox (s : State) : (s.applyReset).inbox = s.inbox := rfl
@[simp] theorem State.applyReset_outbox (s : State) : (s.applyReset).outbox = s.outbox := rfl

/-! ### `State.writeCmd` -/

@[simp] theorem State.writeCmd_cfg (off : Nat) (b : Byte) (s : State) : (s.writeCmd off b).cfg = s.cfg := rfl
@[simp] theorem State.writeCmd_status (off : Nat) (b : Byte) (s : State) : (s.writeCmd off b).status = s.status := rfl
@[simp] theorem State.writeCmd_cmdLen (off : Nat) (b : Byte) (s : State) : (s.writeCmd off b).cmdLen = s.cmdLen := rfl
@[simp] theorem State.writeCmd_rspLen (off : Nat) (b : Byte) (s : State) : (s.writeCmd off b).rspLen = s.rspLen := rfl
@[simp] theorem State.writeCmd_fcause (off : Nat) (b : Byte) (s : State) : (s.writeCmd off b).fcause = s.fcause := rfl
@[simp] theorem State.writeCmd_cmd (off : Nat) (b : Byte) (s : State) : (s.writeCmd off b).cmd = s.cmd.write off b := rfl
@[simp] theorem State.writeCmd_rsp (off : Nat) (b : Byte) (s : State) : (s.writeCmd off b).rsp = s.rsp := rfl
@[simp] theorem State.writeCmd_latched (off : Nat) (b : Byte) (s : State) : (s.writeCmd off b).latched = s.latched := rfl
@[simp] theorem State.writeCmd_cmdEpoch (off : Nat) (b : Byte) (s : State) : (s.writeCmd off b).cmdEpoch = s.cmdEpoch := rfl
@[simp] theorem State.writeCmd_rspEpoch (off : Nat) (b : Byte) (s : State) : (s.writeCmd off b).rspEpoch = s.rspEpoch := rfl
@[simp] theorem State.writeCmd_inbox (off : Nat) (b : Byte) (s : State) : (s.writeCmd off b).inbox = s.inbox := rfl
@[simp] theorem State.writeCmd_outbox (off : Nat) (b : Byte) (s : State) : (s.writeCmd off b).outbox = s.outbox := rfl

/-! ### `State.observe` -/

@[simp] theorem State.observe_cfg (o : Reply) (s : State) : (s.observe o).cfg = s.cfg := rfl
@[simp] theorem State.observe_status (o : Reply) (s : State) : (s.observe o).status = s.status := rfl
@[simp] theorem State.observe_cmdLen (o : Reply) (s : State) : (s.observe o).cmdLen = s.cmdLen := rfl
@[simp] theorem State.observe_rspLen (o : Reply) (s : State) : (s.observe o).rspLen = s.rspLen := rfl
@[simp] theorem State.observe_fcause (o : Reply) (s : State) : (s.observe o).fcause = s.fcause := rfl
@[simp] theorem State.observe_cmd (o : Reply) (s : State) : (s.observe o).cmd = s.cmd := rfl
@[simp] theorem State.observe_rsp (o : Reply) (s : State) : (s.observe o).rsp = s.rsp := rfl
@[simp] theorem State.observe_latched (o : Reply) (s : State) : (s.observe o).latched = s.latched := rfl
@[simp] theorem State.observe_cmdEpoch (o : Reply) (s : State) : (s.observe o).cmdEpoch = s.cmdEpoch := rfl
@[simp] theorem State.observe_rspEpoch (o : Reply) (s : State) : (s.observe o).rspEpoch = s.rspEpoch := rfl
@[simp] theorem State.observe_inbox (o : Reply) (s : State) : (s.observe o).inbox = s.inbox := rfl
@[simp] theorem State.observe_outbox (o : Reply) (s : State) : (s.observe o).outbox = s.outbox ++ [o] := rfl

/-! ### Register writes -/

@[simp] theorem State.writeReg_status (v : Nat) (s : State) : s.writeReg .status v = s := rfl
@[simp] theorem State.writeReg_rspLen (v : Nat) (s : State) : s.writeReg .rspLen v = s := rfl
@[simp] theorem State.writeReg_fcause (v : Nat) (s : State) : s.writeReg .fcause v = s := rfl

theorem State.writeReg_cmdLen (v : Nat) (s : State) :
    s.writeReg .cmdLen v = { s with cmdLen := BitVec.ofNat 9 (min v cmdCap) } := rfl

theorem State.writeReg_ctrl_start {v : Nat} (h : v % 2 = 1) (s : State) : s.writeReg .ctrl v = s.start := by
  simp [State.writeReg, h]

theorem State.writeReg_ctrl_zero {v : Nat} (h : v % 2 = 0) (s : State) : s.writeReg .ctrl v = s := by
  simp [State.writeReg, h]

/-! ### `START` -/

theorem State.start_of_ready {s : State} (h : s.status = .idle ∨ s.status = .done) : s.start = s.latch s.command := by
  rcases h with h | h <;> simp [State.start, h]

theorem State.start_of_not_ready {s : State} (h : s.status = .busy ∨ s.status = .fault) : s.start = s := by
  rcases h with h | h <;> simp [State.start, h]

/-- All that a register write can do: latch a command, store a length, or nothing. -/
theorem State.writeReg_cases (r : Reg) (v : Nat) (s : State) :
    s.writeReg r v = s
    ∨ (r = .ctrl ∧ v % 2 = 1 ∧ (s.status = .idle ∨ s.status = .done) ∧ s.writeReg r v = s.latch s.command)
    ∨ (r = .cmdLen ∧ s.writeReg r v = { s with cmdLen := BitVec.ofNat 9 (min v cmdCap) }) := by
  cases r with
  | ctrl =>
    rcases Nat.mod_two_eq_zero_or_one v with h | h
    · exact .inl (s.writeReg_ctrl_zero h)
    · rw [s.writeReg_ctrl_start h]
      cases hs : s.status with
      | idle => exact .inr (.inl ⟨rfl, h, .inl rfl, State.start_of_ready (.inl hs)⟩)
      | done => exact .inr (.inl ⟨rfl, h, .inr rfl, State.start_of_ready (.inr hs)⟩)
      | busy => exact .inl (State.start_of_not_ready (.inl hs))
      | fault => exact .inl (State.start_of_not_ready (.inr hs))
  | status => exact .inl rfl
  | cmdLen => exact .inr (.inr ⟨rfl, rfl⟩)
  | rspLen => exact .inl rfl
  | fcause => exact .inl rfl

end Sys2Proof.Machine
end

