-- ==== Sys2Proof/Laws/Step.lean ====
section
/-! SUPPORT. Inversion lemmas: all that one step, one input and one turn of CORE can do. -/

namespace Sys2Proof.Machine

@[simp] theorem answer_eq (ws : List U64) (s : State) : answer ws s = .next (s.respond ws) := rfl

theorem step_of_nil {s : State} (h : s.inbox = []) : step s = coreStep s := by
  simp [step, h]

theorem step_of_cons {s : State} {a : Input} {rest : List Input} (h : s.inbox = a :: rest) :
    step s = perform a { s with inbox := rest } := by
  simp [step, h]

/-- All that an input can do when it leads to a next state. -/
theorem perform_cases {a : Input} {s t : State} (h : perform a s = .next t) :
    (∃ off b, a = .writeCmd off b ∧ off < cmdCap ∧ t = s.writeCmd off b)
    ∨ (∃ r v, a = .writeReg r v ∧ t = s.writeReg r v)
    ∨ (∃ r, a = .readReg r ∧ t = s.observe (.reg r (s.readReg r)))
    ∨ (∃ off, a = .readRsp off ∧ off < rspCap ∧ t = s.observe (.rspByte off (s.rspByte off)))
    ∨ (a = .reset ∧ t = s.applyReset)
    ∨ (a = .coreTurn ∧ coreStep s = .next t) := by
  cases a with
  | writeCmd off b =>
    simp only [perform] at h
    split at h
    · exact .inl ⟨off, b, rfl, ‹_›, by simpa using h.symm⟩
    · cases h
  | writeReg r v => exact .inr (.inl ⟨r, v, rfl, by simpa [perform] using h.symm⟩)
  | readReg r => exact .inr (.inr (.inl ⟨r, rfl, by simpa [perform] using h.symm⟩))
  | readRsp off =>
    simp only [perform] at h
    split at h
    · exact .inr (.inr (.inr (.inl ⟨off, rfl, ‹_›, by simpa using h.symm⟩)))
    · cases h
  | reset => exact .inr (.inr (.inr (.inr (.inl ⟨rfl, by simpa [perform] using h.symm⟩))))
  | coreTurn => exact .inr (.inr (.inr (.inr (.inr ⟨rfl, h⟩))))

/-- A turn of CORE: waiting outside `BUSY`, the completing step in it. -/
theorem coreStep_cases (s : State) :
    (s.status ≠ .busy ∧ coreStep s = .next s) ∨ (s.status = .busy ∧ coreStep s = complete s) := by
  cases h : s.status <;> simp [coreStep, h]

/-- The completing step by what the latched bytes decode to. -/
theorem complete_cases (s : State) :
    (∃ i, decode s.latched = .instr i ∧ complete s = exec i s)
    ∨ (∃ sel, decode s.latched = .unknownSelector sel ∧ complete s = .next (s.respond [0#64]))
    ∨ (decode s.latched = .shortCommand ∧ complete s = .next (s.takeFault .shortCommand)) := by
  cases h : decode s.latched with
  | instr i => exact .inl ⟨i, rfl, by simp [complete, h]⟩
  | unknownSelector sel => exact .inr (.inl ⟨sel, rfl, by simp [complete, h]⟩)
  | shortCommand => exact .inr (.inr ⟨rfl, by simp [complete, h]⟩)

/-- All that one step can do when it leads to a next state. -/
theorem step_cases {s t : State} (h : step s = .next t) :
    (s.inbox = [] ∧ coreStep s = .next t)
    ∨ ∃ a rest, s.inbox = a :: rest ∧ perform a { s with inbox := rest } = .next t := by
  cases hi : s.inbox with
  | nil => exact .inl ⟨rfl, by rwa [step_of_nil hi] at h⟩
  | cons a rest => exact .inr ⟨a, rest, rfl, by rwa [step_of_cons hi] at h⟩

end Sys2Proof.Machine
end

