-- ==== Sys2Proof/Laws/Outcome.lean ====
section
/-! SUPPORT. The two ends of a command, each said once: a response and the fault entry, in the terms of Safety.lean. -/

namespace Sys2Proof.Machine

/-- Byte `k` of the big-endian bytes of a number. -/
theorem getElem?_beBytes (n v k : Nat) (h : k < n) :
    (beBytes n v)[k]? = some (BitVec.ofNat 8 (v / 256 ^ (n - 1 - k))) := by
  induction n generalizing k with
  | zero => omega
  | succ n ih =>
    cases k with
    | zero => simp [beBytes]
    | succ k =>
      rw [beBytes, List.getElem?_cons_succ, ih k (by omega), show n - 1 - k = n + 1 - 1 - (k + 1) by omega]

/-- Byte `k` of a word: zero in its first 24 bytes, then the payload. -/
theorem getElem?_abiWord (w : U64) (k : Nat) (h : k < 32) :
    (abiWord w)[k]? = some (if k < 24 then 0#8 else w.extractLsb' (8 * (31 - k)) 8) := by
  unfold abiWord
  split
  · rename_i hk
    rw [List.getElem?_append_left (by simpa using hk)]
    exact List.getElem?_replicate_of_lt hk
  · rename_i hk
    rw [List.getElem?_append_right (by simp; omega), List.length_replicate, getElem?_beBytes _ _ _ (by omega)]
    congr 1
    apply BitVec.eq_of_toNat_eq
    rw [BitVec.extractLsb'_toNat, BitVec.toNat_ofNat, Nat.shiftRight_eq_div_pow,
      show (256 : Nat) ^ (8 - 1 - (k - 24)) = 2 ^ (8 * (31 - k)) by
        rw [show (256 : Nat) = 2 ^ 8 by norm_num, ← pow_mul]; congr 1; omega]

/-- Byte `off` of the words of a response. -/
theorem getElem?_flatMap_abiWord (ws : List U64) (off : Nat) (h : off < 32 * ws.length) :
    (ws.flatMap abiWord)[off]? = some (responseByte ws off) := by
  induction ws generalizing off with
  | nil => simp at h
  | cons w ws ih =>
    rw [List.flatMap_cons]
    by_cases ho : off < 32
    · rw [List.getElem?_append_left (by simpa using ho), getElem?_abiWord w off ho, responseByte,
        Nat.mod_eq_of_lt ho, Nat.div_eq_of_lt ho]
      rfl
    · have h1 : off - 32 < 32 * ws.length := by simp at h; omega
      have hm : (off - 32) % 32 = off % 32 := by omega
      have hd : off / 32 = (off - 32) / 32 + 1 := by omega
      rw [List.getElem?_append_right (by simp; omega), abiWord_length, ih _ h1, responseByte, responseByte, hm, hd]
      rfl

/-- `State.respond` is a response: all that the end of a command with result words does. -/
theorem answered_respond {ws : List U64} (h : ws.length ≤ 3) (s : State) : Answered s (s.respond ws) ws := by
  have hl : (s.respond ws).rspLen.toNat = 32 * ws.length := by
    rw [State.respond_rspLen, BitVec.toNat_ofNat]
    omega
  refine ⟨rfl, hl, ?_, ?_, rfl, rfl, rfl, rfl, rfl, fun _ => rfl, rfl, rfl⟩
  · intro off ho
    have hc : (s.respond ws).status = .done ∧ off < (s.respond ws).rspLen.toNat := ⟨rfl, by omega⟩
    rw [State.rspByte, if_pos hc, State.respond_rsp, Memory.read?_block, if_pos (Nat.zero_le _), Nat.sub_zero,
      getElem?_flatMap_abiWord ws off ho]
    rfl
  · intro off ho
    rw [State.rspByte, if_neg (fun hc => by omega)]

/-- `State.takeFault` is the fault entry. -/
theorem faulted_takeFault (c : Cause) (s : State) : Faulted s (s.takeFault c) c := by
  refine ⟨rfl, rfl, rfl, ?_, rfl, rfl, rfl, rfl, fun _ => rfl, rfl, rfl⟩
  intro off
  rw [State.rspByte, if_neg (fun hc => by simp at hc)]

end Sys2Proof.Machine
end

