-- ==== Sys2Proof/Laws/PerInstr.lean ====
section
/-! SUPPORT. Statements per instruction. `EncodedForm`: an instruction encodes to its row's selector and exactly its row's
argument words (30_encoding.md R60, R62, R70). -/

namespace Sys2Proof.Laws.EncodedForm

/-- The instruction has as many argument words as its row says, its command is that long and begins with its row's
selector, and the selector names its row. -/
def Statement (i : Instr) : Prop :=
  i.args.length = i.op.arity ∧ (encode i).length = 4 + 32 * i.op.arity
    ∧ memRead (encode i) 0 4 = i.op.selector ∧ Op.ofSelector i.op.selector = some i.op

/-- The number of argument words is the one thing that depends on the constructor. -/
theorem of_args {i : Instr} (h : i.args.length = i.op.arity) : Statement i :=
  ⟨h, by rw [encode_length, h], memRead_selector i.op _, ofSelector_selector i.op⟩

theorem modexp (base exp modulus : U64) : Statement (.modexp base exp modulus) :=
  of_args rfl
theorem square (n : U64) : Statement (.square n) :=
  of_args rfl
theorem sqrt (n : U64) : Statement (.sqrt n) :=
  of_args rfl
theorem mul (a b : U64) : Statement (.mul a b) :=
  of_args rfl
theorem div (a b : U64) : Statement (.div a b) :=
  of_args rfl
theorem lerp (start stop t : U64) : Statement (.lerp start stop t) :=
  of_args rfl
theorem sin (angle : U64) : Statement (.sin angle) :=
  of_args rfl
theorem cos (angle : U64) : Statement (.cos angle) :=
  of_args rfl
theorem sqdist (x1 y1 x2 y2 : U64) : Statement (.sqdist x1 y1 x2 y2) :=
  of_args rfl
theorem dist (x1 y1 x2 y2 : U64) : Statement (.dist x1 y1 x2 y2) :=
  of_args rfl
theorem dot (aX aY bX bY : I64) : Statement (.dot aX aY bX bY) :=
  of_args rfl
theorem mag (x y : I64) : Statement (.mag x y) :=
  of_args rfl
theorem cross (aX aY bX bY : I64) : Statement (.cross aX aY bX bY) :=
  of_args rfl
theorem clamp (v min max : U64) : Statement (.clamp v min max) :=
  of_args rfl
theorem clampmag (x y : I64) (max : U64) : Statement (.clampmag x y max) :=
  of_args rfl
theorem inrect (px py minX minY maxX maxY : U64) : Statement (.inrect px py minX minY maxX maxY) :=
  of_args rfl
theorem incirc (px py cx cy r : U64) : Statement (.incirc px py cx cy r) :=
  of_args rfl
theorem vadd (aX aY bX bY : I64) : Statement (.vadd aX aY bX bY) :=
  of_args rfl
theorem vsub (aX aY bX bY : I64) : Statement (.vsub aX aY bX bY) :=
  of_args rfl
theorem vscale (x y k : I64) : Statement (.vscale x y k) :=
  of_args rfl
theorem vnorm (x y : I64) : Statement (.vnorm x y) :=
  of_args rfl
theorem vrot (x y : I64) (angle : U64) : Statement (.vrot x y angle) :=
  of_args rfl
theorem vrefl (vx vy nx ny : I64) : Statement (.vrefl vx vy nx ny) :=
  of_args rfl
theorem intri (px py aX aY bX bY cX cY : U64) : Statement (.intri px py aX aY bX bY cX cY) :=
  of_args rfl
theorem modinv (a modulus : U64) : Statement (.modinv a modulus) :=
  of_args rfl
theorem isprime (n : U64) : Statement (.isprime n) :=
  of_args rfl
theorem gcd (a b : U64) : Statement (.gcd a b) :=
  of_args rfl
theorem lcm (a b : U64) : Statement (.lcm a b) :=
  of_args rfl
theorem fact (n : U64) : Statement (.fact n) :=
  of_args rfl
theorem nck (n k : U64) : Statement (.nck n k) :=
  of_args rfl
theorem log2 (n : U64) : Statement (.log2 n) :=
  of_args rfl
theorem log10 (n : U64) : Statement (.log10 n) :=
  of_args rfl
theorem popcnt (n : U64) : Statement (.popcnt n) :=
  of_args rfl
theorem bitrev (n : U64) : Statement (.bitrev n) :=
  of_args rfl
theorem phi (n : U64) : Statement (.phi n) :=
  of_args rfl
theorem rotl (x : U64) (n : U32) : Statement (.rotl x n) :=
  of_args rfl
theorem rotr (x : U64) (n : U32) : Statement (.rotr x n) :=
  of_args rfl
theorem cteq (a b : U64) : Statement (.cteq a b) :=
  of_args rfl
theorem clmul (a b : U64) : Statement (.clmul a b) :=
  of_args rfl
theorem rng (seed : U64) : Statement (.rng seed) :=
  of_args rfl
theorem padd (p q : Point) (a modulus : U64) : Statement (.padd p q a modulus) := by
  cases p <;> cases q <;> exact of_args rfl
theorem pdbl (p : Point) (a modulus : U64) : Statement (.pdbl p a modulus) := by
  cases p <;> exact of_args rfl
theorem proj (angle : U64) (v0 gravity : I64) : Statement (.proj angle v0 gravity) :=
  of_args rfl

end Sys2Proof.Laws.EncodedForm
end

