-- ==== Sys2Proof/Tests/Slice0.lean ====
section
/-! SUPPORT. Tests and witnesses. Commands are written out as numbers, the selector of 4 bytes and each argument word of 32
bytes, from the encodings and expected results of 95_test_vectors.md; the byte layout here is independent of the model's
encoder. -/

namespace Sys2Proof.Tests

set_option Elab.async false

open Sys2Proof.Machine

/-- The bytes of a number written in `n` bytes, most significant first. -/
def spell (n v : Nat) : List Byte := (List.range n).map (fun k => BitVec.ofNat 8 (v >>> (8 * (n - 1 - k))))

/-- A command: its selector, then its argument words as numbers of 32 bytes. -/
def command (sel : Nat) (ws : List Nat) : List Byte := spell 4 sel ++ ws.flatMap (spell 32)

/-- The machine after reset with a command latched. -/
def running (bs : List Byte) : State := State.reset.latch bs

/-- The response as whole 32-byte numbers, if there is one. -/
def response (o : Host.Outcome State Fault Refusal) : Option (List Nat) :=
  match o with
  | .next t =>
    if t.status = .done then
      some ((List.range (t.rspLen.toNat / 32)).map (fun j =>
        (List.range 32).foldl (fun acc k => acc * 256 + (t.rspByte (32 * j + k)).toNat) 0))
    else none
  | .fault _ => none
  | .refused _ => none

/-! ## WellFormed refuses ill-formed terms -/

theorem test_padd_refuses_sentinel_first : (Instr.padd (.coord u64Ones u64Ones) (.coord 1#64 2#64) 3#64 17#64).wellFormed = false := by
  decide
theorem test_padd_refuses_sentinel_second : (Instr.padd .infinity (.coord u64Ones u64Ones) 3#64 17#64).wellFormed = false := by
  decide
theorem test_pdbl_refuses_sentinel : (Instr.pdbl (.coord u64Ones u64Ones) 3#64 17#64).wellFormed = false := by
  decide

/-! ## Decoding, one command of every row. Each theorem also meets the hypotheses of its `DecodesTo`, at the shortest length
that is allowed. -/

theorem test_decode_modexp :
    let bs := command 0x00000001
     [0x0000000000000000000000000000000000000000000000000000000000000004,
      0x000000000000000000000000000000000000000000000000000000000000000D,
      0x00000000000000000000000000000000000000000000000000000000000001F1]
    memRead bs 0 4 = 0x01 ∧ 4 + 32 * 3 = bs.length ∧ decode bs = .instr (.modexp 4#64 13#64 497#64) := by
  decide +kernel
theorem test_decode_square :
    let bs := command 0x00000002
     [0x0000000000000000000000000000000000000000000000000000000000000096]
    memRead bs 0 4 = 0x02 ∧ 4 + 32 * 1 = bs.length ∧ decode bs = .instr (.square 150#64) := by
  decide +kernel
theorem test_decode_sqrt :
    let bs := command 0x00000003
     [0x00000000000000000000000000000000000000000000000000000000000000C8]
    memRead bs 0 4 = 0x03 ∧ 4 + 32 * 1 = bs.length ∧ decode bs = .instr (.sqrt 200#64) := by
  decide +kernel
theorem test_decode_mul :
    let bs := command 0x00000004
     [0x00000000000000000000000000000000000000000000000000000000000000FA,
      0x000000000000000000000000000000000000000000000000000000000000012C]
    memRead bs 0 4 = 0x04 ∧ 4 + 32 * 2 = bs.length ∧ decode bs = .instr (.mul 250#64 300#64) := by
  decide +kernel
theorem test_decode_div :
    let bs := command 0x00000005
     [0x00000000000000000000000000000000000000000000000000000000000001F4,
      0x00000000000000000000000000000000000000000000000000000000000000C8]
    memRead bs 0 4 = 0x05 ∧ 4 + 32 * 2 = bs.length ∧ decode bs = .instr (.div 500#64 200#64) := by
  decide +kernel
theorem test_decode_lerp :
    let bs := command 0x00000006
     [0x00000000000000000000000000000000000000000000000000000000000000C8,
      0x0000000000000000000000000000000000000000000000000000000000000064,
      0x0000000000000000000000000000000000000000000000000000000000000019]
    memRead bs 0 4 = 0x06 ∧ 4 + 32 * 3 = bs.length ∧ decode bs = .instr (.lerp 200#64 100#64 25#64) := by
  decide +kernel
theorem test_decode_sin :
    let bs := command 0x00000007
     [0x0000000000000000000000000000000000000000000000000000000000000834]
    memRead bs 0 4 = 0x07 ∧ 4 + 32 * 1 = bs.length ∧ decode bs = .instr (.sin 2100#64) := by
  decide +kernel
theorem test_decode_cos :
    let bs := command 0x00000008
     [0x00000000000000000000000000000000000000000000000000000000000001C2]
    memRead bs 0 4 = 0x08 ∧ 4 + 32 * 1 = bs.length ∧ decode bs = .instr (.cos 450#64) := by
  decide +kernel
theorem test_decode_sqdist :
    let bs := command 0x00000009
     [0x0000000000000000000000000000000000000000000000000000000000000000,
      0x0000000000000000000000000000000000000000000000000000000000000000,
      0x000000000000000000000000000000000000000000000000000000000000012C,
      0x0000000000000000000000000000000000000000000000000000000000000190]
    memRead bs 0 4 = 0x09 ∧ 4 + 32 * 4 = bs.length ∧ decode bs = .instr (.sqdist 0#64 0#64 300#64 400#64) := by
  decide +kernel
theorem test_decode_dist :
    let bs := command 0x0000000A
     [0x0000000000000000000000000000000000000000000000000000000000000000,
      0x0000000000000000000000000000000000000000000000000000000000000000,
      0x000000000000000000000000000000000000000000000000000000000000012C,
      0x0000000000000000000000000000000000000000000000000000000000000190]
    memRead bs 0 4 = 0x0A ∧ 4 + 32 * 4 = bs.length ∧ decode bs = .instr (.dist 0#64 0#64 300#64 400#64) := by
  decide +kernel
theorem test_decode_dot :
    let bs := command 0x0000000B
     [0x000000000000000000000000000000000000000000000000FFFFFFFFFFFFFF9C,
      0x00000000000000000000000000000000000000000000000000000000000000C8,
      0x000000000000000000000000000000000000000000000000000000000000012C,
      0x0000000000000000000000000000000000000000000000000000000000000190]
    memRead bs 0 4 = 0x0B ∧ 4 + 32 * 4 = bs.length ∧ decode bs = .instr (.dot (-100#64) 200#64 300#64 400#64) := by
  decide +kernel
theorem test_decode_mag :
    let bs := command 0x0000000C
     [0x000000000000000000000000000000000000000000000000FFFFFFFFFFFFFED4,
      0x000000000000000000000000000000000000000000000000FFFFFFFFFFFFFE70]
    memRead bs 0 4 = 0x0C ∧ 4 + 32 * 2 = bs.length ∧ decode bs = .instr (.mag (-300#64) (-400#64)) := by
  decide +kernel
theorem test_decode_cross :
    let bs := command 0x0000000D
     [0x00000000000000000000000000000000000000000000000000000000000000C8,
      0x000000000000000000000000000000000000000000000000000000000000012C,
      0x0000000000000000000000000000000000000000000000000000000000000190,
      0x0000000000000000000000000000000000000000000000000000000000000258]
    memRead bs 0 4 = 0x0D ∧ 4 + 32 * 4 = bs.length ∧ decode bs = .instr (.cross 200#64 300#64 400#64 600#64) := by
  decide +kernel
theorem test_decode_clamp :
    let bs := command 0x0000000E
     [0x0000000000000000000000000000000000000000000000000000000000000005,
      0x000000000000000000000000000000000000000000000000000000000000000A,
      0x0000000000000000000000000000000000000000000000000000000000000014]
    memRead bs 0 4 = 0x0E ∧ 4 + 32 * 3 = bs.length ∧ decode bs = .instr (.clamp 5#64 10#64 20#64) := by
  decide +kernel
theorem test_decode_clampmag :
    let bs := command 0x0000000F
     [0x000000000000000000000000000000000000000000000000FFFFFFFFFFFFFED4,
      0x0000000000000000000000000000000000000000000000000000000000000190,
      0x0000000000000000000000000000000000000000000000000000000000000064]
    memRead bs 0 4 = 0x0F ∧ 4 + 32 * 3 = bs.length ∧ decode bs = .instr (.clampmag (-300#64) 400#64 100#64) := by
  decide +kernel
theorem test_decode_inrect :
    let bs := command 0x00000010
     [0x000000000000000000000000000000000000000000000000000000000000000A,
      0x0000000000000000000000000000000000000000000000000000000000000005,
      0x0000000000000000000000000000000000000000000000000000000000000000,
      0x0000000000000000000000000000000000000000000000000000000000000000,
      0x000000000000000000000000000000000000000000000000000000000000000A,
      0x000000000000000000000000000000000000000000000000000000000000000A]
    memRead bs 0 4 = 0x10 ∧ 4 + 32 * 6 = bs.length ∧ decode bs = .instr (.inrect 10#64 5#64 0#64 0#64 10#64 10#64) := by
  decide +kernel
theorem test_decode_incirc :
    let bs := command 0x00000011
     [0x0000000000000000000000000000000000000000000000000000000000000000,
      0x0000000000000000000000000000000000000000000000000000000000000000,
      0x000000000000000000000000000000000000000000000000000000000000012C,
      0x0000000000000000000000000000000000000000000000000000000000000190,
      0x00000000000000000000000000000000000000000000000000000000000001F4]
    memRead bs 0 4 = 0x11 ∧ 4 + 32 * 5 = bs.length ∧ decode bs = .instr (.incirc 0#64 0#64 300#64 400#64 500#64) := by
  decide +kernel
theorem test_decode_vadd :
    let bs := command 0x00000012
     [0x0000000000000000000000000000000000000000000000000000000000000001,
      0x0000000000000000000000000000000000000000000000000000000000000002,
      0x0000000000000000000000000000000000000000000000000000000000000003,
      0x0000000000000000000000000000000000000000000000000000000000000004]
    memRead bs 0 4 = 0x12 ∧ 4 + 32 * 4 = bs.length ∧ decode bs = .instr (.vadd 1#64 2#64 3#64 4#64) := by
  decide +kernel
theorem test_decode_vsub :
    let bs := command 0x00000013
     [0x0000000000000000000000000000000000000000000000000000000000000001,
      0x0000000000000000000000000000000000000000000000000000000000000002,
      0x0000000000000000000000000000000000000000000000000000000000000003,
      0x0000000000000000000000000000000000000000000000000000000000000004]
    memRead bs 0 4 = 0x13 ∧ 4 + 32 * 4 = bs.length ∧ decode bs = .instr (.vsub 1#64 2#64 3#64 4#64) := by
  decide +kernel
theorem test_decode_vscale :
    let bs := command 0x00000014
     [0x000000000000000000000000000000000000000000000000000000000000012C,
      0x000000000000000000000000000000000000000000000000FFFFFFFFFFFFFE70,
      0x0000000000000000000000000000000000000000000000000000000000000096]
    memRead bs 0 4 = 0x14 ∧ 4 + 32 * 3 = bs.length ∧ decode bs = .instr (.vscale 300#64 (-400#64) 150#64) := by
  decide +kernel
theorem test_decode_vnorm :
    let bs := command 0x00000015
     [0x000000000000000000000000000000000000000000000000FFFFFFFFFFFFFED4,
      0x0000000000000000000000000000000000000000000000000000000000000190]
    memRead bs 0 4 = 0x15 ∧ 4 + 32 * 2 = bs.length ∧ decode bs = .instr (.vnorm (-300#64) 400#64) := by
  decide +kernel
theorem test_decode_vrot :
    let bs := command 0x00000016
     [0x000000000000000000000000000000000000000000000000000000000000012C,
      0x0000000000000000000000000000000000000000000000000000000000000190,
      0x000000000000000000000000000000000000000000000000000000000000012C]
    memRead bs 0 4 = 0x16 ∧ 4 + 32 * 3 = bs.length ∧ decode bs = .instr (.vrot 300#64 400#64 300#64) := by
  decide +kernel
theorem test_decode_vrefl :
    let bs := command 0x00000017
     [0x0000000000000000000000000000000000000000000000000000000000000064,
      0x000000000000000000000000000000000000000000000000FFFFFFFFFFFFFF9C,
      0x0000000000000000000000000000000000000000000000000000000000000000,
      0x0000000000000000000000000000000000000000000000000000000000000064]
    memRead bs 0 4 = 0x17 ∧ 4 + 32 * 4 = bs.length ∧ decode bs = .instr (.vrefl 100#64 (-100#64) 0#64 100#64) := by
  decide +kernel
theorem test_decode_intri :
    let bs := command 0x00000018
     [0x00000000000000000000000000000000000000000000000000000000000000C9,
      0x00000000000000000000000000000000000000000000000000000000000000C8,
      0x0000000000000000000000000000000000000000000000000000000000000000,
      0x0000000000000000000000000000000000000000000000000000000000000000,
      0x0000000000000000000000000000000000000000000000000000000000000190,
      0x0000000000000000000000000000000000000000000000000000000000000000,
      0x0000000000000000000000000000000000000000000000000000000000000000,
      0x0000000000000000000000000000000000000000000000000000000000000190]
    memRead bs 0 4 = 0x18 ∧ 4 + 32 * 8 = bs.length ∧ decode bs = .instr (.intri 201#64 200#64 0#64 0#64 400#64 0#64 0#64 400#64) := by
  decide +kernel
theorem test_decode_modinv :
    let bs := command 0x00000019
     [0x0000000000000000000000000000000000000000000000000000000000000003,
      0x000000000000000000000000000000000000000000000000000000000000000B]
    memRead bs 0 4 = 0x19 ∧ 4 + 32 * 2 = bs.length ∧ decode bs = .instr (.modinv 3#64 11#64) := by
  decide +kernel
theorem test_decode_isprime :
    let bs := command 0x0000001A
     [0x0000000000000000000000000000000000000000000000000000000000000061]
    memRead bs 0 4 = 0x1A ∧ 4 + 32 * 1 = bs.length ∧ decode bs = .instr (.isprime 97#64) := by
  decide +kernel
theorem test_decode_gcd :
    let bs := command 0x0000001B
     [0x0000000000000000000000000000000000000000000000000000000000000030,
      0x0000000000000000000000000000000000000000000000000000000000000012]
    memRead bs 0 4 = 0x1B ∧ 4 + 32 * 2 = bs.length ∧ decode bs = .instr (.gcd 48#64 18#64) := by
  decide +kernel
theorem test_decode_lcm :
    let bs := command 0x0000001C
     [0x0000000000000000000000000000000000000000000000000000000000000004,
      0x0000000000000000000000000000000000000000000000000000000000000006]
    memRead bs 0 4 = 0x1C ∧ 4 + 32 * 2 = bs.length ∧ decode bs = .instr (.lcm 4#64 6#64) := by
  decide +kernel
theorem test_decode_fact :
    let bs := command 0x0000001D
     [0x0000000000000000000000000000000000000000000000000000000000000014]
    memRead bs 0 4 = 0x1D ∧ 4 + 32 * 1 = bs.length ∧ decode bs = .instr (.fact 20#64) := by
  decide +kernel
theorem test_decode_nck :
    let bs := command 0x0000001E
     [0x0000000000000000000000000000000000000000000000000000000000000034,
      0x0000000000000000000000000000000000000000000000000000000000000005]
    memRead bs 0 4 = 0x1E ∧ 4 + 32 * 2 = bs.length ∧ decode bs = .instr (.nck 52#64 5#64) := by
  decide +kernel
theorem test_decode_log2 :
    let bs := command 0x0000001F
     [0x00000000000000000000000000000000000000000000000000000000000003FF]
    memRead bs 0 4 = 0x1F ∧ 4 + 32 * 1 = bs.length ∧ decode bs = .instr (.log2 1023#64) := by
  decide +kernel
theorem test_decode_log10 :
    let bs := command 0x00000020
     [0x00000000000000000000000000000000000000000000000000000000000003E7]
    memRead bs 0 4 = 0x20 ∧ 4 + 32 * 1 = bs.length ∧ decode bs = .instr (.log10 999#64) := by
  decide +kernel
theorem test_decode_popcnt :
    let bs := command 0x00000021
     [0x00000000000000000000000000000000000000000000000000000000000000F0]
    memRead bs 0 4 = 0x21 ∧ 4 + 32 * 1 = bs.length ∧ decode bs = .instr (.popcnt 240#64) := by
  decide +kernel
theorem test_decode_bitrev :
    let bs := command 0x00000022
     [0x00000000000000000000000000000000000000000000000000000000000000F0]
    memRead bs 0 4 = 0x22 ∧ 4 + 32 * 1 = bs.length ∧ decode bs = .instr (.bitrev 240#64) := by
  decide +kernel
theorem test_decode_phi :
    let bs := command 0x00000023
     [0x0000000000000000000000000000000000000000000000000000000000000024]
    memRead bs 0 4 = 0x23 ∧ 4 + 32 * 1 = bs.length ∧ decode bs = .instr (.phi 36#64) := by
  decide +kernel
theorem test_decode_rotl :
    let bs := command 0x00000024
     [0x0000000000000000000000000000000000000000000000000123456789ABCDEF,
      0x0000000000000000000000000000000000000000000000000000000000000008]
    memRead bs 0 4 = 0x24 ∧ 4 + 32 * 2 = bs.length ∧ decode bs = .instr (.rotl 0x0123456789ABCDEF#64 8#32) := by
  decide +kernel
theorem test_decode_rotr :
    let bs := command 0x00000025
     [0x0000000000000000000000000000000000000000000000000123456789ABCDEF,
      0x0000000000000000000000000000000000000000000000000000000000000008]
    memRead bs 0 4 = 0x25 ∧ 4 + 32 * 2 = bs.length ∧ decode bs = .instr (.rotr 0x0123456789ABCDEF#64 8#32) := by
  decide +kernel
theorem test_decode_cteq :
    let bs := command 0x00000026
     [0x0000000000000000000000000000000000000000000000000000000000000005,
      0x0000000000000000000000000000000000000000000000000000000000000006]
    memRead bs 0 4 = 0x26 ∧ 4 + 32 * 2 = bs.length ∧ decode bs = .instr (.cteq 5#64 6#64) := by
  decide +kernel
theorem test_decode_clmul :
    let bs := command 0x00000027
     [0x0000000000000000000000000000000000000000000000000123456789ABCDEF,
      0x000000000000000000000000000000000000000000000000FEDCBA9876543210]
    memRead bs 0 4 = 0x27 ∧ 4 + 32 * 2 = bs.length ∧ decode bs = .instr (.clmul 0x0123456789ABCDEF#64 0xFEDCBA9876543210#64) := by
  decide +kernel
theorem test_decode_rng :
    let bs := command 0x00000028
     [0x0000000000000000000000000000000000000000000000000000000000000002]
    memRead bs 0 4 = 0x28 ∧ 4 + 32 * 1 = bs.length ∧ decode bs = .instr (.rng 2#64) := by
  decide +kernel
theorem test_decode_padd :
    let bs := command 0x00000029
     [0x0000000000000000000000000000000000000000000000000000000000000005,
      0x0000000000000000000000000000000000000000000000000000000000000001,
      0x000000000000000000000000000000000000000000000000FFFFFFFFFFFFFFFF,
      0x000000000000000000000000000000000000000000000000FFFFFFFFFFFFFFFF,
      0x0000000000000000000000000000000000000000000000000000000000000002,
      0x0000000000000000000000000000000000000000000000000000000000000011]
    memRead bs 0 4 = 0x29 ∧ 4 + 32 * 6 = bs.length ∧ decode bs = .instr (.padd (.coord 5#64 1#64) .infinity 2#64 17#64) := by
  decide +kernel
theorem test_decode_pdbl :
    let bs := command 0x0000002A
     [0x0000000000000000000000000000000000000000000000000000000000000005,
      0x0000000000000000000000000000000000000000000000000000000000000001,
      0x0000000000000000000000000000000000000000000000000000000000000002,
      0x0000000000000000000000000000000000000000000000000000000000000010]
    memRead bs 0 4 = 0x2A ∧ 4 + 32 * 4 = bs.length ∧ decode bs = .instr (.pdbl (.coord 5#64 1#64) 2#64 16#64) := by
  decide +kernel
theorem test_decode_proj :
    let bs := command 0x0000002B
     [0x0000000000000000000000000000000000000000000000000000000000000384,
      0x00000000000000000000000000000000000000000000000000000000000003E8,
      0x00000000000000000000000000000000000000000000000000000000000003D5]
    memRead bs 0 4 = 0x2B ∧ 4 + 32 * 3 = bs.length ∧ decode bs = .instr (.proj 900#64 1000#64 981#64) := by
  decide +kernel

/-- A selector whose low byte alone would match is unknown, and so is 0 (30_encoding.md R71). -/
theorem test_decode_unknown :
    decode (command 0x01000000 []) = .unknownSelector 0x01000000 ∧ decode (command 0 []) = .unknownSelector 0 := by
  decide +kernel

/-- The table numbers a row's bits from the least significant bit of the selector (log 8). -/
theorem test_decode_table_word :
    decodeTableWord 32 0x2B = some (.proj 0#64 0#64 0#64) ∧ decodeTableWord 32 0x2C = none := by
  decide +kernel

/-- The step after the load runs the row's instruction: `FACT 0` is present with 1 (44_integer_utils.md R192). -/
theorem test_fetch_word : response (step (State.reset.withFetchWord 32 0x1D)) = some [1, 1] := by
  decide +kernel

/-! ## One step of every row, on vectors of 95_test_vectors.md -/

/-- `MODEXP 4, 13, 497`. -/
theorem test_modexp_power :
    response (step (running (command 0x01 [4, 13, 497])))
      = some [445] := by
  decide +kernel
/-- `MODEXP 5, 3, 0`. -/
theorem test_modexp_zero_modulus :
    response (step (running (command 0x01 [5, 3, 0])))
      = some [0] := by
  decide +kernel
/-- `SQUARE 150`. -/
theorem test_square_value :
    response (step (running (command 0x02 [150])))
      = some [225] := by
  decide +kernel
/-- `SQUARE 4294967296`. -/
theorem test_square_saturates :
    response (step (running (command 0x02 [4294967296])))
      = some [184467440737095516] := by
  decide +kernel
/-- `SQRT 200`. -/
theorem test_sqrt_floor :
    response (step (running (command 0x03 [200])))
      = some [141] := by
  decide +kernel
/-- `SQRT 18446744073709551615`. -/
theorem test_sqrt_saturated_scale :
    response (step (running (command 0x03 [18446744073709551615])))
      = some [4294967295] := by
  decide +kernel
/-- `MUL 250, 300`. -/
theorem test_mul_value :
    response (step (running (command 0x04 [250, 300])))
      = some [750] := by
  decide +kernel
/-- `MUL 184467440737095517, 100`. -/
theorem test_mul_saturates :
    response (step (running (command 0x04 [184467440737095517, 100])))
      = some [184467440737095516] := by
  decide +kernel
/-- `DIV 500, 200`. -/
theorem test_div_value :
    response (step (running (command 0x05 [500, 200])))
      = some [250] := by
  decide +kernel
/-- `DIV 5, 0`. -/
theorem test_div_zero_divisor :
    response (step (running (command 0x05 [5, 0])))
      = some [0] := by
  decide +kernel
/-- `LERP 200, 100, 25`. -/
theorem test_lerp_down :
    response (step (running (command 0x06 [200, 100, 25])))
      = some [175] := by
  decide +kernel
/-- `LERP 0, 18446744073709551615, 100`. -/
theorem test_lerp_saturated_step :
    response (step (running (command 0x06 [0, 18446744073709551615, 100])))
      = some [184467440737095516] := by
  decide +kernel
/-- `SIN 2100`. -/
theorem test_sin_third_quadrant :
    response (step (running (command 0x07 [2100])))
      = some [18446744073709551566] := by
  decide +kernel
/-- `SIN 901`. -/
theorem test_sin_reverse_read :
    response (step (running (command 0x07 [901])))
      = some [100] := by
  decide +kernel
/-- `COS 910`. -/
theorem test_cos_negative :
    response (step (running (command 0x08 [910])))
      = some [18446744073709551615] := by
  decide +kernel
/-- `COS 18446744073709551615`. -/
theorem test_cos_wraps :
    response (step (running (command 0x08 [18446744073709551615])))
      = some [99] := by
  decide +kernel
/-- `SQDIST 0, 0, 300, 400`. -/
theorem test_sqdist_value :
    response (step (running (command 0x09 [0, 0, 300, 400])))
      = some [2500] := by
  decide +kernel
/-- `SQDIST 0, 0, 18446744073709551615, 18446744073709551615`. -/
theorem test_sqdist_largest :
    response (step (running (command 0x09 [0, 0, 18446744073709551615, 18446744073709551615])))
      = some [368934881474191032] := by
  decide +kernel
/-- `DIST 0, 0, 300, 400`. -/
theorem test_dist_value :
    response (step (running (command 0x0A [0, 0, 300, 400])))
      = some [500] := by
  decide +kernel
/-- `DIST 0, 0, 100, 100`. -/
theorem test_dist_floor :
    response (step (running (command 0x0A [0, 0, 100, 100])))
      = some [141] := by
  decide +kernel
/-- `DOT -100, 200, 300, 400`. -/
theorem test_dot_signed :
    response (step (running (command 0x0B [18446744073709551516, 200, 300, 400])))
      = some [500] := by
  decide +kernel
/-- `DOT 9223372036854775807, 9223372036854775807, 9223372036854775807, 9223372036854775807`. -/
theorem test_dot_clamped_products :
    response (step (running (command 0x0B [9223372036854775807, 9223372036854775807, 9223372036854775807, 9223372036854775807])))
      = some [184467440737095516] := by
  decide +kernel
/-- `MAG -300, -400`. -/
theorem test_mag_signed :
    response (step (running (command 0x0C [18446744073709551316, 18446744073709551216])))
      = some [500] := by
  decide +kernel
/-- `MAG -9223372036854775808, -9223372036854775808`. -/
theorem test_mag_most_negative :
    response (step (running (command 0x0C [9223372036854775808, 9223372036854775808])))
      = some [4294967295] := by
  decide +kernel
/-- `CROSS 100, 0, 0, 100`. -/
theorem test_cross_value :
    response (step (running (command 0x0D [100, 0, 0, 100])))
      = some [100] := by
  decide +kernel
/-- `CROSS 0, 100, 100, 0`. -/
theorem test_cross_negative :
    response (step (running (command 0x0D [0, 100, 100, 0])))
      = some [18446744073709551516] := by
  decide +kernel
/-- `CLAMP 5, 10, 20`. -/
theorem test_clamp_low :
    response (step (running (command 0x0E [5, 10, 20])))
      = some [10] := by
  decide +kernel
/-- `CLAMP 25, 20, 10`. -/
theorem test_clamp_reversed_bounds :
    response (step (running (command 0x0E [25, 20, 10])))
      = some [10] := by
  decide +kernel
/-- `CLAMPMAG -300, 400, 100`. -/
theorem test_clampmag_scales :
    response (step (running (command 0x0F [18446744073709551316, 400, 100])))
      = some [18446744073709551556, 80] := by
  decide +kernel
/-- `CLAMPMAG 300, 400, 500`. -/
theorem test_clampmag_keeps :
    response (step (running (command 0x0F [300, 400, 500])))
      = some [300, 400] := by
  decide +kernel
/-- `INRECT 10, 5, 0, 0, 10, 10`. -/
theorem test_inrect_boundary :
    response (step (running (command 0x10 [10, 5, 0, 0, 10, 10])))
      = some [1] := by
  decide +kernel
/-- `INRECT 11, 5, 0, 0, 10, 10`. -/
theorem test_inrect_outside :
    response (step (running (command 0x10 [11, 5, 0, 0, 10, 10])))
      = some [0] := by
  decide +kernel
/-- `INCIRC 300, 400, 0, 0, 500`. -/
theorem test_incirc_boundary :
    response (step (running (command 0x11 [300, 400, 0, 0, 500])))
      = some [1] := by
  decide +kernel
/-- `INCIRC 300, 400, 0, 0, 499`. -/
theorem test_incirc_outside :
    response (step (running (command 0x11 [300, 400, 0, 0, 499])))
      = some [0] := by
  decide +kernel
/-- `VADD 1, 2, 3, 4`. -/
theorem test_vadd_value :
    response (step (running (command 0x12 [1, 2, 3, 4])))
      = some [4, 6] := by
  decide +kernel
/-- `VADD 9223372036854775807, -9223372036854775808, 1, -1`. -/
theorem test_vadd_clamps :
    response (step (running (command 0x12 [9223372036854775807, 9223372036854775808, 1, 18446744073709551615])))
      = some [9223372036854775807, 9223372036854775808] := by
  decide +kernel
/-- `VSUB 1, 2, 3, 4`. -/
theorem test_vsub_negative :
    response (step (running (command 0x13 [1, 2, 3, 4])))
      = some [18446744073709551614, 18446744073709551614] := by
  decide +kernel
/-- `VSUB -9223372036854775808, 9223372036854775807, 1, -1`. -/
theorem test_vsub_clamps :
    response (step (running (command 0x13 [9223372036854775808, 9223372036854775807, 1, 18446744073709551615])))
      = some [9223372036854775808, 9223372036854775807] := by
  decide +kernel
/-- `VSCALE 300, -400, 150`. -/
theorem test_vscale_value :
    response (step (running (command 0x14 [300, 18446744073709551216, 150])))
      = some [450, 18446744073709551016] := by
  decide +kernel
/-- `VSCALE 1, -1, 50`. -/
theorem test_vscale_truncates :
    response (step (running (command 0x14 [1, 18446744073709551615, 50])))
      = some [0, 0] := by
  decide +kernel
/-- `VNORM -300, 400`. -/
theorem test_vnorm_value :
    response (step (running (command 0x15 [18446744073709551316, 400])))
      = some [18446744073709551556, 80] := by
  decide +kernel
/-- `VNORM -9223372036854775808, 0`. -/
theorem test_vnorm_most_negative :
    response (step (running (command 0x15 [9223372036854775808, 0])))
      = some [18446744070672551116, 0] := by
  decide +kernel
/-- `VROT 0, 100, 900`. -/
theorem test_vrot_quarter :
    response (step (running (command 0x16 [0, 100, 900])))
      = some [18446744073709551516, 0] := by
  decide +kernel
/-- `VROT 300, 400, 300`. -/
theorem test_vrot_value :
    response (step (running (command 0x16 [300, 400, 300])))
      = some [58, 494] := by
  decide +kernel
/-- `VREFL 100, -100, 0, 100`. -/
theorem test_vrefl_value :
    response (step (running (command 0x17 [100, 18446744073709551516, 0, 100])))
      = some [100, 100] := by
  decide +kernel
/-- `VREFL 100, -100, 100, 0`. -/
theorem test_vrefl_other_axis :
    response (step (running (command 0x17 [100, 18446744073709551516, 100, 0])))
      = some [18446744073709551516, 18446744073709551516] := by
  decide +kernel
/-- `INTRI 100, 100, 0, 0, 0, 400, 400, 0`. -/
theorem test_intri_inside :
    response (step (running (command 0x18 [100, 100, 0, 0, 0, 400, 400, 0])))
      = some [1] := by
  decide +kernel
/-- `INTRI 201, 200, 0, 0, 400, 0, 0, 400`. -/
theorem test_intri_outside :
    response (step (running (command 0x18 [201, 200, 0, 0, 400, 0, 0, 400])))
      = some [0] := by
  decide +kernel
/-- `MODINV 3, 11`. -/
theorem test_modinv_present :
    response (step (running (command 0x19 [3, 11])))
      = some [1, 4] := by
  decide +kernel
/-- `MODINV 2, 4`. -/
theorem test_modinv_absent :
    response (step (running (command 0x19 [2, 4])))
      = some [0, 0] := by
  decide +kernel
/-- `ISPRIME 97`. -/
theorem test_isprime_prime :
    response (step (running (command 0x1A [97])))
      = some [1] := by
  decide +kernel
/-- `ISPRIME 561`. -/
theorem test_isprime_carmichael :
    response (step (running (command 0x1A [561])))
      = some [0] := by
  decide +kernel
/-- `GCD 48, 18`. -/
theorem test_gcd_value :
    response (step (running (command 0x1B [48, 18])))
      = some [6] := by
  decide +kernel
/-- `GCD 7, 0`. -/
theorem test_gcd_zero :
    response (step (running (command 0x1B [7, 0])))
      = some [7] := by
  decide +kernel
/-- `LCM 4, 6`. -/
theorem test_lcm_value :
    response (step (running (command 0x1C [4, 6])))
      = some [12] := by
  decide +kernel
/-- `LCM 9223372036854775808, 3`. -/
theorem test_lcm_clamps :
    response (step (running (command 0x1C [9223372036854775808, 3])))
      = some [18446744073709551615] := by
  decide +kernel
/-- `FACT 20`. -/
theorem test_fact_largest :
    response (step (running (command 0x1D [20])))
      = some [1, 2432902008176640000] := by
  decide +kernel
/-- `FACT 21`. -/
theorem test_fact_absent :
    response (step (running (command 0x1D [21])))
      = some [0, 0] := by
  decide +kernel
/-- `NCK 52, 5`. -/
theorem test_nck_value :
    response (step (running (command 0x1E [52, 5])))
      = some [2598960] := by
  decide +kernel
/-- `NCK 64, 32`. -/
theorem test_nck_saturates :
    response (step (running (command 0x1E [64, 32])))
      = some [576460752303423487] := by
  decide +kernel
/-- `LOG2 1023`. -/
theorem test_log2_floor :
    response (step (running (command 0x1F [1023])))
      = some [1, 9] := by
  decide +kernel
/-- `LOG2 0`. -/
theorem test_log2_zero :
    response (step (running (command 0x1F [0])))
      = some [0, 0] := by
  decide +kernel
/-- `LOG10 999`. -/
theorem test_log10_floor :
    response (step (running (command 0x20 [999])))
      = some [1, 2] := by
  decide +kernel
/-- `LOG10 18446744073709551615`. -/
theorem test_log10_largest :
    response (step (running (command 0x20 [18446744073709551615])))
      = some [1, 19] := by
  decide +kernel
/-- `POPCNT 81985529216486895`. -/
theorem test_popcnt_value :
    response (step (running (command 0x21 [81985529216486895])))
      = some [32] := by
  decide +kernel
/-- `POPCNT 18446744073709551615`. -/
theorem test_popcnt_all :
    response (step (running (command 0x21 [18446744073709551615])))
      = some [64] := by
  decide +kernel
/-- `BITREV 240`. -/
theorem test_bitrev_value :
    response (step (running (command 0x22 [240])))
      = some [1080863910568919040] := by
  decide +kernel
/-- `BITREV 9223372036854775808`. -/
theorem test_bitrev_top :
    response (step (running (command 0x22 [9223372036854775808])))
      = some [1] := by
  decide +kernel
/-- `PHI 36`. -/
theorem test_phi_value :
    response (step (running (command 0x23 [36])))
      = some [12] := by
  decide +kernel
/-- `PHI 97`. -/
theorem test_phi_prime :
    response (step (running (command 0x23 [97])))
      = some [96] := by
  decide +kernel
/-- `ROTL 81985529216486895, 8`. -/
theorem test_rotl_value :
    response (step (running (command 0x24 [81985529216486895, 8])))
      = some [2541551405711093505] := by
  decide +kernel
/-- `ROTL 81985529216486895, 68`. -/
theorem test_rotl_count_modulo_64 :
    response (step (running (command 0x24 [81985529216486895, 68])))
      = some [1311768467463790320] := by
  decide +kernel
/-- `ROTR 81985529216486895, 8`. -/
theorem test_rotr_value :
    response (step (running (command 0x25 [81985529216486895, 8])))
      = some [17222085231038278605] := by
  decide +kernel
/-- `ROTR 1, 65`. -/
theorem test_rotr_count_modulo_64 :
    response (step (running (command 0x25 [1, 65])))
      = some [9223372036854775808] := by
  decide +kernel
/-- `CTEQ 5, 5`. -/
theorem test_cteq_equal :
    response (step (running (command 0x26 [5, 5])))
      = some [1] := by
  decide +kernel
/-- `CTEQ 72057594037927936, 1`. -/
theorem test_cteq_different :
    response (step (running (command 0x26 [72057594037927936, 1])))
      = some [0] := by
  decide +kernel
/-- `CLMUL 81985529216486895, 18364758544493064720`. -/
theorem test_clmul_value :
    response (step (running (command 0x27 [81985529216486895, 18364758544493064720])))
      = some [63112896901042352, 4656854609615655152] := by
  decide +kernel
/-- `CLMUL 9223372036854775808, 2`. -/
theorem test_clmul_high_half :
    response (step (running (command 0x27 [9223372036854775808, 2])))
      = some [1, 0] := by
  decide +kernel
/-- `RNG 2`. -/
theorem test_rng_value :
    response (step (running (command 0x28 [2])))
      = some [10360984590412790330] := by
  decide +kernel
/-- `RNG 0`. -/
theorem test_rng_zero_seed :
    response (step (running (command 0x28 [0])))
      = some [5180492295206395165] := by
  decide +kernel
/-- `PADD 5, 1, 6, 3, 2, 17`. -/
theorem test_padd_secant :
    response (step (running (command 0x29 [5, 1, 6, 3, 2, 17])))
      = some [1, 10, 6] := by
  decide +kernel
/-- `PADD 5, 1, 5, 16, 2, 17`. -/
theorem test_padd_opposite :
    response (step (running (command 0x29 [5, 1, 5, 16, 2, 17])))
      = some [1, 18446744073709551615, 18446744073709551615] := by
  decide +kernel
/-- `PDBL 5, 1, 2, 17`. -/
theorem test_pdbl_tangent :
    response (step (running (command 0x2A [5, 1, 2, 17])))
      = some [1, 6, 3] := by
  decide +kernel
/-- `PDBL 5, 1, 2, 16`. -/
theorem test_pdbl_absent :
    response (step (running (command 0x2A [5, 1, 2, 16])))
      = some [0, 0, 0] := by
  decide +kernel
/-- `PROJ 450, 1000, 981`. -/
theorem test_proj_value :
    response (step (running (command 0x2B [450, 1000, 981])))
      = some [100, 18446744073709551606] := by
  decide +kernel
/-- `PROJ 900, 1000, 981`. -/
theorem test_proj_zero_cosine :
    response (step (running (command 0x2B [900, 1000, 981])))
      = some [9223372036854775807, 0] := by
  decide +kernel

/-! ## The machine around the commands -/

/-- A machine that has answered a command. -/
def doneState : State := State.reset.respond [750#64]

/-- A machine in the fault. -/
def faultState : State := State.reset.takeFault .shortCommand

/-- `MUL 250, 300` as bytes. -/
def mulBytes : List Byte := command 0x04 [250, 300]

/-- The next state of an outcome, if it has one. -/
def next? (o : Host.Outcome State Fault Refusal) : Option State :=
  match o with
  | .next t => some t
  | .fault _ => none
  | .refused _ => none

theorem eq_next {o : Host.Outcome State Fault Refusal} {t : State} (h : next? o = some t) : o = .next t := by
  cases o <;> simp_all [next?]

/-- A length of 67 bytes is one too short for `MUL` (30_encoding.md R64). -/
theorem test_short_mul_faults :
    step (running (mulBytes.take 67)) = .next ((running (mulBytes.take 67)).takeFault .shortCommand) :=
  eq_next (by decide +kernel)

/-- `CMD_LEN` stores 260 for 261, and `START` in `DONE` latches (10_state.md R29, R30). -/
theorem test_length_clamps_and_start_latches :
    runFor 2 { doneState with inbox := [.writeReg .cmdLen 261, .writeReg .cmdLen 0] } = .next { doneState with cmdLen := 0 }
    ∧ step { doneState with inbox := [.writeReg .cmdLen 261] } = .next { doneState with cmdLen := 260 }
    ∧ step { doneState with inbox := [.writeReg .ctrl 1] } = .next (doneState.latch []) :=
  ⟨eq_next (by decide +kernel), eq_next (by decide +kernel), eq_next (by decide +kernel)⟩

/-! ## Witnesses: every statement with hypotheses has states and operands that meet them, clause by clause -/

theorem witness_reset_input : ({ doneState with inbox := [.reset, .coreTurn] } : State).inbox = .reset :: [.coreTurn] := rfl

/-- A running machine meets the invariant and steps to a next state. -/
theorem witness_invariant_and_step :
    (running mulBytes).Inv ∧ step (running mulBytes) = .next ((running mulBytes).respond [750#64]) := by
  refine ⟨⟨by decide +kernel, by decide +kernel, by decide +kernel, by decide +kernel, by decide +kernel, by decide +kernel,
    by decide +kernel, ?_⟩, eq_next (by decide +kernel)⟩
  exact ⟨rfl, rfl⟩

/-- A machine in each other status that meets the invariant and steps. -/
theorem witness_invariant_in_done_and_fault :
    (doneState.Inv ∧ step { doneState with inbox := [] } = .next doneState) ∧ (faultState.Inv ∧ step faultState = .next faultState) := by
  refine ⟨⟨⟨by decide +kernel, by decide +kernel, by decide +kernel, by decide +kernel, by decide +kernel, by decide +kernel,
    by decide +kernel, .inl rfl, rfl, rfl⟩, eq_next (by decide +kernel)⟩,
    ⟨by decide +kernel, by decide +kernel, by decide +kernel, by decide +kernel, by decide +kernel, by decide +kernel,
    by decide +kernel, rfl, rfl, rfl⟩, eq_next (by decide +kernel)⟩

/-- Each of the transitions of `STATUS`. -/
theorem witness_status_transitions :
    step { State.reset with inbox := [.writeReg .ctrl 1] } = .next (State.reset.latch [])
    ∧ step { doneState with inbox := [.writeReg .ctrl 3] } = .next (doneState.latch [])
    ∧ step (running mulBytes) = .next ((running mulBytes).respond [750#64])
    ∧ step { running [] with inbox := [.coreTurn] } = .next ((running []).takeFault .shortCommand)
    ∧ step { faultState with inbox := [.reset] } = .next faultState.applyReset :=
  ⟨eq_next (by decide +kernel), eq_next (by decide +kernel), eq_next (by decide +kernel), eq_next (by decide +kernel), eq_next (by decide +kernel)⟩

theorem witness_step_runs :
    (running mulBytes).status = .busy ∧ decode (running mulBytes).latched = .instr (.mul 250#64 300#64)
    ∧ (running mulBytes).inbox = []
    ∧ ({ running mulBytes with inbox := [.coreTurn] } : State).inbox = .coreTurn :: [] := by
  decide +kernel

/-- Both clauses of a short command, at their boundaries: 3 bytes, no byte, and `MUL` with 67. -/
theorem witness_short_command :
    (∀ bs : List Byte, (running bs).status = .busy ∧ (running bs).inbox = [])
    ∧ (running [0#8, 0#8, 0#8]).latched.length < 4 ∧ (running []).latched.length < 4
    ∧ ∃ op : Op, memRead (running (mulBytes.take 67)).latched 0 4 = op.selector
      ∧ (running (mulBytes.take 67)).latched.length < 4 + 32 * op.arity :=
  ⟨fun _ => ⟨rfl, rfl⟩, by decide, by decide, .mul, by decide +kernel, by decide +kernel⟩

/-- A running command and an explicit turn of CORE, with an input after it, for any bytes: those of the two clauses above and of an
unknown selector among them. -/
def runningWithTurn (bs : List Byte) : State := { running bs with inbox := [.coreTurn, .reset] }

theorem witness_explicit_turn :
    (∀ bs, (runningWithTurn bs).status = .busy ∧ (runningWithTurn bs).inbox = .coreTurn :: [.reset]
      ∧ (runningWithTurn bs).latched = bs)
    ∧ (mulBytes.take 3).length < 4
    ∧ (memRead (mulBytes.take 67) 0 4 = Op.mul.selector ∧ (mulBytes.take 67).length < 4 + 32 * Op.mul.arity)
    ∧ (4 ≤ (command 0 []).length ∧ memRead (command 0 []) 0 4 < 0x01)
    ∧ (4 ≤ (command 0x2C []).length ∧ 0x2B < memRead (command 0x2C []) 0 4) :=
  ⟨fun _ => ⟨rfl, rfl, rfl⟩, by decide +kernel, by decide +kernel, by decide +kernel, by decide +kernel⟩

/-- Selectors on both sides of the map, in commands of 4 bytes. -/
theorem witness_unknown_selector :
    (∀ bs : List Byte, (running bs).status = .busy ∧ (running bs).inbox = [])
    ∧ (4 ≤ (running (command 0 [])).latched.length ∧ memRead (running (command 0 [])).latched 0 4 < 0x01)
    ∧ (4 ≤ (running (command 0x2C [])).latched.length ∧ 0x2B < memRead (running (command 0x2C [])).latched 0 4)
    ∧ (4 ≤ (running (command 0xFFFFFFFF [])).latched.length ∧ 0x2B < memRead (running (command 0xFFFFFFFF [])).latched 0 4) :=
  ⟨fun _ => ⟨rfl, rfl⟩, by decide +kernel, by decide +kernel, by decide +kernel⟩

theorem witness_fault_steps :
    faultState.status = .fault
    ∧ step { faultState with inbox := [.reset] } = .next faultState.applyReset
    ∧ step { faultState with inbox := [.writeReg .ctrl 1] } = .next faultState
    ∧ step faultState = .next faultState :=
  ⟨rfl, eq_next (by decide +kernel), eq_next (by decide +kernel), eq_next (by decide +kernel)⟩

theorem witness_start :
    (State.reset.status = .idle ∧ ({ State.reset with inbox := [.writeReg .ctrl 1] } : State).inbox = .writeReg .ctrl 1 :: [])
    ∧ (doneState.status = .done ∧ ({ doneState with inbox := [.writeReg .ctrl 3] } : State).inbox = .writeReg .ctrl 3 :: [])
    ∧ 1 % 2 = 1 ∧ 3 % 2 = 1 := by
  decide

/-- Each case of a register write, with the values where the cases meet. -/
theorem witness_register_writes :
    step { doneState with inbox := [.writeReg .cmdLen 260] } = .next { doneState with cmdLen := 260 }
    ∧ step { doneState with inbox := [.writeReg .cmdLen 261] } = .next { doneState with cmdLen := 260 }
    ∧ ({ running [] with inbox := [.writeReg .ctrl 1] } : State).status = .busy
    ∧ ({ faultState with inbox := [.writeReg .ctrl 1] } : State).status = .fault
    ∧ ({ doneState with inbox := [.writeReg .ctrl 2] } : State).inbox = .writeReg .ctrl 2 :: [] ∧ 2 % 2 = 0
    ∧ ({ doneState with inbox := [.writeReg .status 3] } : State).inbox = .writeReg .status 3 :: []
    ∧ ({ doneState with inbox := [.writeReg .rspLen 3] } : State).inbox = .writeReg .rspLen 3 :: []
    ∧ ({ doneState with inbox := [.writeReg .fcause 3] } : State).inbox = .writeReg .fcause 3 :: [] :=
  ⟨eq_next (by decide +kernel), eq_next (by decide +kernel), rfl, rfl, rfl, rfl, rfl, rfl, rfl⟩

/-- Writes of every kind at the ends of their ranges, while a command runs. -/
def writesWhileBusy : State :=
  { running mulBytes with inbox := [.writeCmd 0 0xFF#8, .writeCmd 259 0xFF#8, .writeReg .cmdLen 0, .writeReg .ctrl 1] }

theorem witness_host_writes : writesWhileBusy.status = .busy ∧ ∀ a ∈ writesWhileBusy.inbox, a.isHostWrite := by
  refine ⟨rfl, ?_⟩
  intro a ha
  simp only [writesWhileBusy, List.mem_cons, List.not_mem_nil, or_false] at ha
  rcases ha with rfl | rfl | rfl | rfl <;> simp [Input.isHostWrite]

/-- `MUL` with nonzero bytes at both ends of the ignored part of an argument word. -/
def mulNoisy : List Byte := (mulBytes.set 4 0xFF#8).set 27 0xFF#8

/-- Two lists of one length that agree where `P` holds, checked up to their length. -/
theorem agree_of_lt {bs cs : List Byte} (h : bs.length = cs.length) (P : Nat → Prop)
    (hlt : ∀ off, off < bs.length → P off → bs[off]? = cs[off]?) (off : Nat) (hp : P off) : bs[off]? = cs[off]? := by
  by_cases ho : off < bs.length
  · exact hlt off ho hp
  · rw [List.getElem?_eq_none (by omega), List.getElem?_eq_none (by omega)]

theorem witness_high_bytes :
    mulBytes.length = mulNoisy.length ∧ mulBytes ≠ mulNoisy
    ∧ ∀ off, off < 4 ∨ 24 ≤ (off - 4) % 32 → mulBytes[off]? = mulNoisy[off]? := by
  refine ⟨by decide +kernel, by decide +kernel, agree_of_lt (by decide +kernel) _ ?_⟩
  decide +kernel

/-- `ROTL 1, 1` with a nonzero byte 24 of the count word. -/
def rotlNoisy : List Byte := (command 0x24 [1, 1]).set 60 0xFF#8

theorem witness_high_bytes_of_a_count :
    (command 0x24 [1, 1]).length = rotlNoisy.length ∧ command 0x24 [1, 1] ≠ rotlNoisy
    ∧ Op.ofSelector (memRead (command 0x24 [1, 1]) 0 4) = some .rotl
    ∧ Op.ofSelector (memRead (command 0x25 [1, 1]) 0 4) = some .rotr
    ∧ ∀ off, off < 4 ∨ (24 ≤ (off - 4) % 32 ∧ ¬(60 ≤ off ∧ off < 64)) → (command 0x24 [1, 1])[off]? = rotlNoisy[off]? := by
  refine ⟨by decide +kernel, by decide +kernel, by decide +kernel, by decide +kernel, agree_of_lt (by decide +kernel) _ ?_⟩
  decide +kernel

/-- Both cases of excess bytes, at the shortest lengths. -/
theorem witness_excess_bytes :
    (∃ op : Op, memRead mulBytes 0 4 = op.selector ∧ 4 + 32 * op.arity ≤ mulBytes.length)
    ∧ 4 ≤ (command 0 []).length ∧ ∀ op : Op, memRead (command 0 []) 0 4 ≠ op.selector :=
  ⟨⟨.mul, by decide +kernel, by decide +kernel⟩, by decide +kernel, fun op => by cases op <;> decide +kernel⟩

/-- A machine with no command bytes in `IDLE` and one in `DONE` that has other bytes beyond its length. -/
def otherMachine : State := { doneState with cmd := [(7, 7#8)], inbox := [.writeReg .ctrl 1] }

theorem witness_same_command :
    State.reset.status = .idle ∧ otherMachine.status = .done
    ∧ ({ State.reset with inbox := [.writeReg .ctrl 1] } : State).inbox = [.writeReg .ctrl 1]
    ∧ otherMachine.inbox = [.writeReg .ctrl 1] ∧ State.reset.cmdLen = otherMachine.cmdLen
    ∧ (∀ off, off < State.reset.cmdLen.toNat → State.reset.cmdByte off = otherMachine.cmdByte off)
    ∧ State.reset.cfg = otherMachine.cfg := by
  refine ⟨rfl, rfl, rfl, rfl, rfl, ?_, rfl⟩
  intro off h
  exact absurd h (Nat.not_lt_zero _)

/-- The same with a byte inside the length, written by HOST in one machine and never reset in the other. -/
theorem witness_same_command_of_one_byte :
    let s : State := { State.reset with cmdLen := 1, cmd := [(0, 1#8)], inbox := [.writeReg .ctrl 1] }
    let t : State := { otherMachine with cmdLen := 1, cmd := [(0, 1#8), (7, 7#8)] }
    s.inbox = t.inbox ∧ s.cmdLen = t.cmdLen ∧ (∀ off, off < s.cmdLen.toNat → s.cmdByte off = t.cmdByte off) ∧ s.cfg = t.cfg := by
  refine ⟨rfl, rfl, ?_, rfl⟩
  intro off h
  obtain rfl : off = 0 := by
    have : off < 1 := h
    omega
  rfl

theorem witness_host_reads :
    ({ doneState with inbox := [.readReg .rspLen] } : State).inbox = .readReg .rspLen :: []
    ∧ ({ doneState with inbox := [.readRsp 95] } : State).inbox = .readRsp 95 :: []
    ∧ doneState.status = .done ∧ 31 < doneState.rspLen.toNat ∧ (31, 0xEE#8) ∈ doneState.rsp ∧ Memory.wf doneState.rsp := by
  decide +kernel

/-- A command of the greatest length, and the empty one. -/
theorem witness_issue :
    (State.reset.status = .idle ∧ (command 0x18 [0, 0, 0, 0, 0, 0, 0, 0]).length ≤ 260
      ∧ ({ State.reset with inbox := issue (command 0x18 [0, 0, 0, 0, 0, 0, 0, 0]) } : State).inbox
        = issue (command 0x18 [0, 0, 0, 0, 0, 0, 0, 0]))
    ∧ (doneState.status = .done ∧ ({ doneState with inbox := issue [] } : State).inbox = issue []) := by
  decide +kernel

/-- Well-formed instructions with each form of a point, one word short of the refused pair among them. -/
theorem witness_well_formed :
    (Instr.padd .infinity (.coord u64Ones 0#64) 2#64 17#64).wellFormed = true
    ∧ (Instr.pdbl (.coord 0#64 u64Ones) 2#64 17#64).wellFormed = true
    ∧ (Instr.rotl u64Ones 0xFFFFFFFF#32).wellFormed = true := by
  decide

/-- A step by an input and a step of CORE. -/
theorem witness_any_step :
    step { doneState with inbox := [.writeCmd 0 1#8] } = .next (doneState.writeCmd 0 1#8)
    ∧ coreStep (running mulBytes) = .next ((running mulBytes).respond [750#64]) :=
  ⟨eq_next (by decide +kernel), eq_next (by decide +kernel)⟩

/-- Absent, `Infinity` and a finite point meet the premise of the round trip. -/
theorem witness_points_on_the_wire :
    (∀ x, (none : Option Point) = some x → x.wellFormed = true)
    ∧ (∀ x, some Point.infinity = some x → x.wellFormed = true)
    ∧ (∀ x, some (Point.coord u64Ones 0#64) = some x → x.wellFormed = true) := by
  refine ⟨?_, ?_, ?_⟩ <;> rintro x ⟨⟩ <;> decide

/-- Steps in `DONE` that are neither a reset nor an accepted `START`. -/
theorem witness_response_stays :
    (doneState.status = .done ∧ step doneState = .next doneState
      ∧ (∀ rest, doneState.inbox ≠ .reset :: rest) ∧ ∀ v rest, doneState.inbox = .writeReg .ctrl v :: rest → v % 2 = 0)
    ∧ (step { doneState with inbox := [.writeReg .ctrl 2] } = .next doneState
      ∧ (∀ rest, ({ doneState with inbox := [.writeReg .ctrl 2] } : State).inbox ≠ .reset :: rest)
      ∧ ∀ v rest, ({ doneState with inbox := [.writeReg .ctrl 2] } : State).inbox = .writeReg .ctrl v :: rest → v % 2 = 0) := by
  refine ⟨⟨rfl, eq_next (by decide +kernel), ?_, ?_⟩, eq_next (by decide +kernel), ?_, ?_⟩
  · rintro rest ⟨⟩
  · rintro v rest ⟨⟩
  · rintro rest ⟨⟩
  · rintro v rest ⟨⟩
    rfl

/-- Accesses on both sides of each buffer's end. -/
theorem witness_host_access :
    step { doneState with inbox := [.writeCmd 260 1#8] } = .fault (.cmdOffsetAbsent 260)
    ∧ step { doneState with inbox := [.writeCmd 259 1#8] } = .next (doneState.writeCmd 259 1#8)
    ∧ step { doneState with inbox := [.readRsp 96] } = .fault (.rspOffsetAbsent 96)
    ∧ (95 < 96 ∧ ({ doneState with inbox := [.readRsp 95] } : State).inbox = .readRsp 95 :: []) :=
  ⟨rfl, eq_next (by decide +kernel), rfl, by decide, rfl⟩

/-- Where the clauses of the fixed-point statements meet. -/
theorem witness_fixed_point_clauses :
    (9#64).toNat ≤ 9 ∧ 4294967296 ≤ (4294967296#64).toNat
    ∧ 9#64 < 10#64 ∧ (10#64 ≤ 21#64 ∧ 20#64 < 21#64) ∧ (10#64 ≤ 20#64 ∧ 20#64 ≤ 20#64) ∧ 10#64 ≤ 10#64
    ∧ 100#64 ≤ 100#64 ∧ 99#64 < 100#64 := by
  decide

/-- The parameters after reset are legal, so the bounds of the sine and the nonzero stream apply. -/
theorem witness_parameters : State.reset.cfg.wf = true ∧ State.reset.cfg.rngMult.getLsbD 0 = true := by
  decide +kernel

theorem witness_vertices :
    ((3#64, 4#64) = (3#64, 4#64) ∨ (3#64, 4#64) = (0#64, 0#64) ∨ (3#64, 4#64) = (1#64, 1#64))
    ∧ ((3#64, 4#64) = (0#64, 0#64) ∨ (3#64, 4#64) = (3#64, 4#64) ∨ (3#64, 4#64) = (1#64, 1#64))
    ∧ ((3#64, 4#64) = (0#64, 0#64) ∨ (3#64, 4#64) = (1#64, 1#64) ∨ (3#64, 4#64) = (3#64, 4#64)) := by
  decide

/-- No inverse for modulus 0 and for a common factor; an inverse otherwise, modulus 1 among them. -/
theorem witness_modinv_clauses :
    (0#64).toNat = 0 ∧ Nat.gcd (2#64).toNat (4#64).toNat ≠ 1
    ∧ ((1#64).toNat ≠ 0 ∧ Nat.gcd (0#64).toNat (1#64).toNat = 1)
    ∧ ((11#64).toNat ≠ 0 ∧ Nat.gcd (3#64).toNat (11#64).toNat = 1) := by
  decide +kernel

theorem witness_prime : Nat.Prime (97#64).toNat ∧ Nat.Prime (2#64).toNat := by
  constructor <;> norm_num

theorem witness_nck_clauses : 10#64 < 11#64 ∧ 62#64 ≤ 62#64 ∧ (62#64).toNat ≤ 62 := by
  decide

theorem witness_log_clauses : 0#64 = 0#64 ∧ 1#64 ≠ 0#64 ∧ u64Ones ≠ 0#64 := by
  decide

/-- The clauses of `PDBL`: `y = 0`, modulus 0, no inverse of `2y`, and an inverse, modulus 1 among them. -/
theorem witness_pdbl_clauses :
    (0#64 = 0#64 ∨ 17#64 = 0#64) ∧ (1#64 = 0#64 ∨ 0#64 = 0#64)
    ∧ ((1#64 ≠ 0#64 ∧ 16#64 ≠ 0#64) ∧ Nat.gcd (2 * (1#64).toNat) (16#64).toNat ≠ 1)
    ∧ ((1#64 ≠ 0#64 ∧ 17#64 ≠ 0#64) ∧ Nat.gcd (2 * (1#64).toNat) (17#64).toNat = 1)
    ∧ ((1#64 ≠ 0#64 ∧ 1#64 ≠ 0#64) ∧ Nat.gcd (2 * (1#64).toNat) (1#64).toNat = 1) := by
  decide +kernel

/-- The clauses of `PADD`: unequal `y`, unequal `x` with modulus 0, without and with an inverse. -/
theorem witness_padd_clauses :
    1#64 ≠ 16#64 ∧ 5#64 ≠ 6#64
    ∧ (0#64 = 0#64 ∨ Int.gcd (((6#64).toNat : Int) - (5#64).toNat) (0#64).toNat ≠ 1)
    ∧ (17#64 = 0#64 ∨ Int.gcd (((22#64).toNat : Int) - (5#64).toNat) (17#64).toNat ≠ 1)
    ∧ (17#64 ≠ 0#64 ∧ Int.gcd (((6#64).toNat : Int) - (5#64).toNat) (17#64).toNat = 1)
    ∧ (17#64 ≠ 0#64 ∧ Int.gcd (((5#64).toNat : Int) - (6#64).toNat) (17#64).toNat = 1) := by
  decide +kernel

/-- `(5, 1)` and `(6, 3)` lie on `y^2 = x^3 + 2 x + 2` modulo 17, and so does `Infinity`. -/
theorem witness_on_curve :
    PointOnCurve (17#64).toNat ((2#64).toNat : ZMod (17#64).toNat) (2 : ZMod (17#64).toNat) (.coord 5#64 1#64)
    ∧ PointOnCurve (17#64).toNat ((2#64).toNat : ZMod (17#64).toNat) (2 : ZMod (17#64).toNat) (.coord 6#64 3#64)
    ∧ PointOnCurve (17#64).toNat ((2#64).toNat : ZMod (17#64).toNat) (2 : ZMod (17#64).toNat) .infinity := by
  refine ⟨?_, ?_, trivial⟩ <;> (show (_ : ZMod 17) = _; decide)

end Sys2Proof.Tests
end

/-! # A response is a function of the command and the parameters (10_state.md R21)

An instruction's result words depend on its operands and the parameters, so CORE's completing step depends on the latched
bytes and the parameters; and `START` latches `CMD[0 .. CMD_LEN)`. -/

namespace Sys2Proof.Machine

/-! ## The result words of an instruction -/

@[simp] theorem optionWords_length (o : Option Nat) : (optionWords o).length = 2 := by
  cases o <;> rfl

@[simp] theorem pointWords_length (o : Option Point) : (pointWords o).length = 3 := by
  cases o with
  | none => rfl
  | some p => cases p <;> rfl

/-- No operation writes more than the three words that `RSP` holds. -/
theorem resultWords_le_three (op : Op) : op.resultWords ≤ 3 := by
  cases op <;> decide

/-- An instruction's response holds as many words as its row says (30_encoding.md R70), and each of them is a function of the
operands and the parameters alone: of the state, `exec` reads `cfg` only. -/
theorem exec_eq_respond (i : Instr) :
    ∃ words : Config → List U64, (∀ c, (words c).length = i.op.resultWords)
      ∧ ∀ s : State, exec i s = .next (s.respond (words s.cfg)) := by
  cases i with
  | sin angle => exact ⟨fun c => [wordI (sinfold c.sinTable angle.toNat)], fun _ => rfl, fun _ => rfl⟩
  | cos angle => exact ⟨fun c => [wordI (cosfold c.sinTable angle.toNat)], fun _ => rfl, fun _ => rfl⟩
  | vrot x y angle =>
    exact ⟨fun c => [wordI (vrotValue c.sinTable x.toInt y.toInt angle.toNat).1,
      wordI (vrotValue c.sinTable x.toInt y.toInt angle.toNat).2], fun _ => rfl, fun _ => rfl⟩
  | proj angle v0 gravity =>
    exact ⟨fun c => [wordI (projValue c.sinTable angle.toNat v0.toInt gravity.toInt).1,
      wordI (projValue c.sinTable angle.toNat v0.toInt gravity.toInt).2], fun _ => rfl, fun _ => rfl⟩
  | rng seed => exact ⟨fun c => [rngValue c.rngMult seed], fun _ => rfl, fun _ => rfl⟩
  | modinv | fact | log2 | log10 => exact ⟨fun _ => optionWords _, fun _ => optionWords_length _, fun _ => rfl⟩
  | padd | pdbl => exact ⟨fun _ => pointWords _, fun _ => pointWords_length _, fun _ => rfl⟩
  | modexp | square | sqrt | mul | div | lerp | sqdist | dist | dot | mag | cross | clamp | inrect | incirc | intri
  | isprime | gcd | lcm | nck | popcnt | bitrev | phi | rotl | rotr | cteq =>
    exact ⟨fun _ => [_], fun _ => rfl, fun _ => rfl⟩
  | clampmag | vadd | vsub | vscale | vnorm | vrefl | clmul => exact ⟨fun _ => [_, _], fun _ => rfl, fun _ => rfl⟩

/-! ## The completing step -/

/-- The latched bytes and the parameters decide how a command ends: with which words, or with the fault. -/
theorem complete_determined (bs : List Byte) (c : Config) :
    (∃ ws : List U64, ws.length ≤ 3
      ∧ ∀ s : State, s.latched = bs → s.cfg = c → complete s = .next (s.respond ws))
    ∨ ∀ s : State, s.latched = bs → complete s = .next (s.takeFault .shortCommand) := by
  cases hd : decode bs with
  | instr i =>
    obtain ⟨words, hlen, hexec⟩ := exec_eq_respond i
    refine .inl ⟨words c, (hlen c).trans_le (resultWords_le_three i.op), fun s hb hc => ?_⟩
    simp [complete, hb, hd, hexec, hc]
  | unknownSelector sel => exact .inl ⟨[0#64], by decide, fun s hb _ => by simp [complete, hb, hd]⟩
  | shortCommand => exact .inr fun s hb => by simp [complete, hb, hd]

/-! ## `START` and the step after it -/

theorem runFor_succ_of_next {s t : State} (h : step s = .next t) (n : Nat) : runFor (n + 1) s = runFor n t := by
  simp [runFor, h]

theorem runFor_one (s : State) : runFor 1 s = step s := by
  cases h : step s <;> simp [runFor, h]

/-- The machine as `START` leaves it when it was the only input pending. -/
def State.started (s : State) : State := { s.latch s.command with inbox := [] }

/-- From `IDLE` or `DONE`, `START` latches the buffered command and CORE's turn completes it. -/
theorem runFor_two_of_start {s : State} (hs : s.status = .idle ∨ s.status = .done)
    (hi : s.inbox = [.writeReg .ctrl 1]) : runFor 2 s = complete s.started := by
  have hstart : step s = .next s.started := by
    have hready : ({ s with inbox := [] } : State).status = .idle ∨ ({ s with inbox := [] } : State).status = .done := hs
    rw [step_of_cons hi, perform, State.writeReg_ctrl_start (by decide), State.start_of_ready hready]
    rfl
  rw [runFor_succ_of_next hstart, runFor_one, step_of_nil rfl]
  rfl

/-- Machines that agree on `CMD_LEN` and on the bytes below it latch the same command. -/
theorem command_congr {s s' : State} (hlen : s.cmdLen = s'.cmdLen)
    (hbytes : ∀ off, off < s.cmdLen.toNat → s.cmdByte off = s'.cmdByte off) : s.command = s'.command := by
  rw [State.command, State.command, ← hlen]
  exact List.map_congr_left fun off hoff => hbytes off (List.mem_range.1 hoff)

/-! ## The end of a command as HOST sees it -/

/-- Two machines show HOST the same end of a command: the same `STATUS`, `RSP_LEN` and response bytes, and in `FAULT` the same
cause. -/
def SameEnd (t t' : State) : Prop :=
  (t.status = .done ∨ t.status = .fault) ∧ t.status = t'.status ∧ t.rspLen = t'.rspLen
    ∧ (∀ off, off < t.rspLen.toNat → t.rspByte off = t'.rspByte off) ∧ (t.status = .fault → t.fcause = t'.fcause)

/-- Responses of the same words look the same, whatever machine they end in. -/
theorem sameEnd_respond {ws : List U64} (h : ws.length ≤ 3) (s s' : State) :
    SameEnd (s.respond ws) (s'.respond ws) := by
  obtain ⟨_, hlen, hbyte, _⟩ := answered_respond h s
  obtain ⟨_, _, hbyte', _⟩ := answered_respond h s'
  refine ⟨.inl rfl, rfl, rfl, fun off hoff => ?_, fun hf => by simp at hf⟩
  rw [hlen] at hoff
  rw [hbyte off hoff, hbyte' off hoff]

/-- The same fault looks the same, whatever machine takes it: there is no response byte to compare. -/
theorem sameEnd_takeFault (c : Cause) (s s' : State) : SameEnd (s.takeFault c) (s'.takeFault c) :=
  ⟨.inr rfl, rfl, rfl, fun _ hoff => absurd hoff (Nat.not_lt_zero _), fun _ => rfl⟩

/-- The completing step ends alike in machines with the same latched bytes and the same parameters. -/
theorem complete_sameEnd {s s' : State} (hbytes : s.latched = s'.latched) (hcfg : s.cfg = s'.cfg) :
    ∃ t t', complete s = .next t ∧ complete s' = .next t' ∧ SameEnd t t' := by
  obtain ⟨ws, hws, hrespond⟩ | hfault := complete_determined s.latched s.cfg
  · exact ⟨_, _, hrespond s rfl rfl, hrespond s' hbytes.symm hcfg.symm, sameEnd_respond hws s s'⟩
  · exact ⟨_, _, hfault s rfl, hfault s' hbytes.symm, sameEnd_takeFault .shortCommand s s'⟩

/-- Settles O14: `START` latches the same bytes in both machines, and the completing step reads nothing else but the
parameters. -/
theorem responseDependsOnlyOnTheCommandAtStart : Obligations.ResponseDependsOnlyOnTheCommandAtStart := by
  intro s s' hs hs' hi hi' hlen hbytes hcfg
  rw [runFor_two_of_start hs hi, runFor_two_of_start hs' hi']
  have hlatched : s.started.latched = s'.started.latched := command_congr hlen hbytes
  exact complete_sameEnd hlatched hcfg

end Sys2Proof.Machine

/-! # The high bytes of argument words are ignored (20_memory.md R55)

A `u64` or `i64` operand is bytes 24 to 31 of its argument word and a `u32` operand bytes 28 to 31 (30_encoding.md R63). Commands
that agree on the selector and on those bytes decode alike, and CORE's completing step reads the latched bytes through the
decoder only. -/

namespace Sys2Proof

/-! ## Reads of the command -/

/-- A read depends on the bytes it covers and on no other. -/
theorem memRead_congr {bs cs : List Byte} {a n : Nat} (h : ∀ off, a ≤ off → off < a + n → bs[off]? = cs[off]?) :
    memRead bs a n = memRead cs a n := by
  have hslice : (bs.drop a).take n = (cs.drop a).take n := by
    refine List.ext_getElem? fun k => ?_
    rw [List.getElem?_take, List.getElem?_take, List.getElem?_drop, List.getElem?_drop]
    split
    · exact h (a + k) (by omega) (by omega)
    · rfl
  rw [memRead, memRead, hslice]

/-- `A[i]` depends on bytes 24 to 31 of argument word `i` only. -/
theorem argU64_congr {bs cs : List Byte} {i : Nat}
    (h : ∀ off, 4 + 32 * i + 24 ≤ off → off < 4 + 32 * i + 32 → bs[off]? = cs[off]?) : argU64 bs i = argU64 cs i := by
  rw [argU64, argU64, memRead_congr h]

/-- `A32[i]` depends on bytes 28 to 31 of argument word `i` only. -/
theorem argU32_congr {bs cs : List Byte} {i : Nat}
    (h : ∀ off, 4 + 32 * i + 28 ≤ off → off < 4 + 32 * i + 32 → bs[off]? = cs[off]?) : argU32 bs i = argU32 cs i := by
  rw [argU32, argU32, memRead_congr h]

/-- `SA[i]` and `A[i]` are the same bits; the sign is a matter of their reading. -/
theorem argI64_eq_argU64 (bs : List Byte) (i : Nat) : argI64 bs i = argU64 bs i := rfl

/-! ## Instructions and decoding -/

/-- Every operand of every operation is read through `A`, `SA`, `A32` or a pair of `A`. -/
theorem Op.build_congr {bs cs : List Byte} (op : Op) (h64 : ∀ i, argU64 bs i = argU64 cs i)
    (h32 : ∀ i, argU32 bs i = argU32 cs i) : op.build bs = op.build cs := by
  cases op <;> simp only [Op.build, argPoint, argI64_eq_argU64, h64, h32]

/-- The rotates read the value's word through `A` and the count's word through `A32` only. -/
theorem Op.build_congr_of_rotate {bs cs : List Byte} {op : Op} (hop : op = .rotl ∨ op = .rotr)
    (hvalue : argU64 bs 0 = argU64 cs 0) (hcount : argU32 bs 1 = argU32 cs 1) : op.build bs = op.build cs := by
  obtain rfl | rfl := hop <;> rw [Op.build, Op.build, hvalue, hcount]

/-- Commands of the same length and selector decode alike if the selected operation reads the same operands from both. -/
theorem decode_congr {bs cs : List Byte} (hlen : bs.length = cs.length) (hsel : memRead bs 0 4 = memRead cs 0 4)
    (hbuild : ∀ op, Op.ofSelector (memRead bs 0 4) = some op → op.build bs = op.build cs) : decode bs = decode cs := by
  unfold decode
  rw [← hlen, ← hsel]
  cases ho : Op.ofSelector (memRead bs 0 4) with
  | none => rfl
  | some op => simp only [hbuild op ho]

/-- Commands that agree outside bytes 0 to 23 of their argument words decode alike. -/
theorem decode_eq_of_low_bytes {bs cs : List Byte} (hlen : bs.length = cs.length)
    (h : ∀ off, off < 4 ∨ 24 ≤ (off - 4) % 32 → bs[off]? = cs[off]?) : decode bs = decode cs :=
  decode_congr hlen (memRead_congr fun off _ hoff => h off (.inl (by omega))) fun op _ =>
    op.build_congr (fun _ => argU64_congr fun off _ _ => h off (.inr (by omega)))
      (fun _ => argU32_congr fun off _ _ => h off (.inr (by omega)))

/-- For the rotates, bytes 24 to 27 of the count's word (offsets 60 to 63 of the command) may differ too. -/
theorem decode_eq_of_low_bytes_of_rotate {bs cs : List Byte} (hlen : bs.length = cs.length)
    (hrot : Op.ofSelector (memRead bs 0 4) = some .rotl ∨ Op.ofSelector (memRead bs 0 4) = some .rotr)
    (h : ∀ off, off < 4 ∨ (24 ≤ (off - 4) % 32 ∧ ¬(60 ≤ off ∧ off < 64)) → bs[off]? = cs[off]?) :
    decode bs = decode cs := by
  refine decode_congr hlen (memRead_congr fun off _ hoff => h off (.inl (by omega))) fun op hop => ?_
  have hrotate : op = .rotl ∨ op = .rotr := by simpa [hop] using hrot
  exact Op.build_congr_of_rotate hrotate (argU64_congr fun off _ _ => h off (.inr (by omega)))
    (argU32_congr fun off _ _ => h off (.inr (by omega)))

end Sys2Proof

namespace Sys2Proof.Machine

/-! ## The completing step -/

/-- Latched commands that decode alike end alike: the latched bytes reach the outcome through the decoder only, since the end
of a command clears them. -/
theorem complete_latched_congr (s : State) {bs cs : List Byte} (h : decode bs = decode cs) :
    complete { s with latched := bs } = complete { s with latched := cs } := by
  simp only [complete, h]
  cases decode cs with
  | instr i =>
    obtain ⟨words, _, hexec⟩ := exec_eq_respond i
    exact (hexec _).trans (hexec { s with latched := cs }).symm
  | unknownSelector | shortCommand => rfl

/-- While `BUSY` with no input pending, the next step completes the command. -/
theorem step_of_busy {s : State} (hbusy : s.status = .busy) (hinbox : s.inbox = []) : step s = complete s := by
  rw [step_of_nil hinbox]
  simp only [coreStep, hbusy]

/-- While `BUSY` with no input pending, latched commands that decode alike have the same outcome. -/
theorem step_latched_congr {s : State} (hbusy : s.status = .busy) (hinbox : s.inbox = []) {bs cs : List Byte}
    (h : decode bs = decode cs) : step { s with latched := bs } = step { s with latched := cs } := by
  rw [step_of_busy (s := { s with latched := bs }) hbusy hinbox, step_of_busy (s := { s with latched := cs }) hbusy hinbox,
    complete_latched_congr s h]

/-- Settles O12: in both clauses the two commands decode alike. -/
theorem highArgumentBytesAreIgnored : Obligations.HighArgumentBytesAreIgnored := fun _ _ _ hbusy hinbox hlen =>
  ⟨fun h => step_latched_congr hbusy hinbox (decode_eq_of_low_bytes hlen h),
    fun hrot h => step_latched_congr hbusy hinbox (decode_eq_of_low_bytes_of_rotate hlen hrot h)⟩

end Sys2Proof.Machine

/-! # An unknown selector answers one zero word (30_encoding.md R71)

The selector of such a command is outside the map, so it decodes to no instruction and no argument is read; either form of CORE's
turn then ends it with the response `words(0)`. -/

namespace Sys2Proof

/-- Four bytes or more whose selector lies outside the map decode to an unknown selector: no other byte is looked at. -/
theorem decode_eq_unknownSelector {bs : List Byte} (hlen : 4 ≤ bs.length)
    (hsel : memRead bs 0 4 < 0x01 ∨ 0x2B < memRead bs 0 4) : decode bs = .unknownSelector (memRead bs 0 4) := by
  have hnone : Op.ofSelector (memRead bs 0 4) = none := (ofSelector_eq_none_iff _).2 hsel
  obtain ⟨_, hshort⟩ | ⟨hunknown, _, _⟩ | ⟨op, hsome, _⟩ := decode_cases bs
  · omega
  · exact hunknown
  · rw [hnone] at hsome
    cases hsome

end Sys2Proof

namespace Sys2Proof.Machine

/-- While `BUSY`, an explicit turn of CORE is taken from the inbox and completes the command. -/
theorem step_of_busy_coreTurn {s : State} {rest : List Input} (hbusy : s.status = .busy)
    (hinbox : s.inbox = .coreTurn :: rest) : step s = complete { s with inbox := rest } := by
  rw [step_of_cons hinbox]
  simp only [perform, coreStep, hbusy]

/-- Every byte of the word 0 is 0. -/
theorem responseByte_zero_word {off : Nat} (h : off < 32) : responseByte [0#64] off = 0#8 := by
  rw [responseByte, Nat.div_eq_of_lt h]
  split
  · rfl
  · simp

/-- The completing step on an unknown selector: one zero word in `DONE`, with `FCAUSE` and all that CORE never writes left alone. -/
theorem complete_of_unknownSelector {s : State} {sel : Nat} (hdecode : decode s.latched = .unknownSelector sel) :
    ∃ t, complete s = .next t ∧ t.status = .done ∧ t.rspLen = 32 ∧ (∀ off, off < 32 → t.rspByte off = 0#8)
      ∧ t.fcause = s.fcause ∧ KeptByCore s t := by
  obtain ⟨hdone, _, hbytes, _, _, hcause, hkept⟩ := answered_respond (ws := [0#64]) (by decide) s
  have hnext : complete s = .next (s.respond [0#64]) := by simp only [complete, hdecode, answer_eq]
  exact ⟨_, hnext, hdone, rfl, fun off hoff => (hbytes off hoff).trans (responseByte_zero_word hoff), hcause, hkept⟩

/-- Settles O7: both forms of CORE's turn are the completing step on a command that decodes to an unknown selector. -/
theorem unknownSelectorAnswersOneZeroWord : Obligations.UnknownSelectorAnswersOneZeroWord := by
  intro s hbusy hlen hsel
  have hdecode : decode s.latched = .unknownSelector (memRead s.latched 0 4) := decode_eq_unknownSelector hlen hsel
  constructor
  · intro hinbox
    rw [step_of_busy hbusy hinbox]
    exact complete_of_unknownSelector hdecode
  · intro rest hinbox
    rw [step_of_busy_coreTurn hbusy hinbox]
    exact complete_of_unknownSelector (s := { s with inbox := rest }) hdecode

end Sys2Proof.Machine

/-! # All that one step can do

`Moves s t` lists the ways the machine goes from `s` to `t`; the statements about every step (invariant, `STATUS`, `FAULT`, frame)
are case analyses over it. -/

namespace Sys2Proof.Machine

/-- It is CORE's turn, and taking it leaves `rest` in the inbox: nothing is pending, or the oldest entry is an explicit turn
(log 2). -/
def CoreTurn (s : State) (rest : List Input) : Prop :=
  (s.inbox = [] ∧ rest = []) ∨ s.inbox = .coreTurn :: rest

/-- The ways of one step, each with the input that causes it. -/
inductive Moves (s : State) : State → Prop
  | writeCmd {off : Nat} {b : Byte} {rest : List Input} (hinbox : s.inbox = .writeCmd off b :: rest) (hoff : off < cmdCap) :
      Moves s (State.writeCmd off b { s with inbox := rest })
  | start {v : Nat} {rest : List Input} (hinbox : s.inbox = .writeReg .ctrl v :: rest) (hv : v % 2 = 1)
      (hready : s.status = .idle ∨ s.status = .done) : Moves s (State.latch s.command { s with inbox := rest })
  | setCmdLen {v : Nat} {rest : List Input} (hinbox : s.inbox = .writeReg .cmdLen v :: rest) :
      Moves s { s with inbox := rest, cmdLen := BitVec.ofNat 9 (min v cmdCap) }
  | writeNothing {r : Reg} {v : Nat} {rest : List Input} (hinbox : s.inbox = .writeReg r v :: rest) :
      Moves s { s with inbox := rest }
  | read (o : Reply) (rest : List Input) : Moves s (State.observe o { s with inbox := rest })
  | reset {rest : List Input} (hinbox : s.inbox = .reset :: rest) : Moves s (State.applyReset { s with inbox := rest })
  | wait {rest : List Input} (hturn : CoreTurn s rest) (hstatus : s.status ≠ .busy) : Moves s { s with inbox := rest }
  | respond {rest : List Input} {ws : List U64} (hturn : CoreTurn s rest) (hstatus : s.status = .busy)
      (hpos : 1 ≤ ws.length) (hlen : ws.length ≤ 3) : Moves s (State.respond ws { s with inbox := rest })
  | takeFault {rest : List Input} (hturn : CoreTurn s rest) (hstatus : s.status = .busy) :
      Moves s (State.takeFault .shortCommand { s with inbox := rest })

/-! ## CORE's turn -/

theorem CoreTurn.inbox_eq {s : State} {rest : List Input} (h : CoreTurn s rest) :
    s.inbox = [] ∨ ∃ rest, s.inbox = .coreTurn :: rest :=
  h.imp And.left fun h => ⟨rest, h⟩

/-- Either form of CORE's turn is CORE's step on the state with the turn taken. -/
theorem CoreTurn.step_eq {s : State} {rest : List Input} (h : CoreTurn s rest) :
    step s = coreStep { s with inbox := rest } := by
  obtain ⟨hnil, rfl⟩ | hcons := h
  · rw [step_of_nil hnil, ← hnil]
  · rw [step_of_cons hcons, perform]

/-- While `BUSY`, either form of CORE's turn completes the command. -/
theorem CoreTurn.step_of_busy {s : State} {rest : List Input} (h : CoreTurn s rest) (hbusy : s.status = .busy) :
    step s = complete { s with inbox := rest } := by
  rw [h.step_eq]
  simp only [coreStep, hbusy]

/-- Every operation writes at least one word. -/
theorem one_le_resultWords (op : Op) : 1 ≤ op.resultWords := by
  cases op <;> decide

/-- The completing step ends in a response of one to three words or in the fault. -/
theorem complete_ends (s : State) :
    (∃ ws : List U64, 1 ≤ ws.length ∧ ws.length ≤ 3 ∧ complete s = .next (s.respond ws))
    ∨ complete s = .next (s.takeFault .shortCommand) := by
  obtain ⟨i, _, hexec⟩ | ⟨_, _, hzero⟩ | ⟨_, hfault⟩ := complete_cases s
  · obtain ⟨words, hlen, hwords⟩ := exec_eq_respond i
    exact .inl ⟨words s.cfg, (one_le_resultWords i.op).trans_eq (hlen _).symm, (hlen _).trans_le (resultWords_le_three i.op),
      hexec.trans (hwords s)⟩
  · exact .inl ⟨[0#64], by decide, by decide, hzero⟩
  · exact .inr hfault

theorem moves_of_coreTurn {s t : State} {rest : List Input} (hturn : CoreTurn s rest) (h : step s = .next t) :
    Moves s t := by
  rw [hturn.step_eq] at h
  obtain ⟨hstatus, hwait⟩ | ⟨hstatus, hcomplete⟩ := coreStep_cases { s with inbox := rest }
  · cases hwait.symm.trans h
    exact .wait hturn hstatus
  · rw [hcomplete] at h
    obtain ⟨ws, hpos, hlen, hws⟩ | hfault := complete_ends { s with inbox := rest }
    · cases hws.symm.trans h
      exact .respond hturn hstatus hpos hlen
    · cases hfault.symm.trans h
      exact .takeFault hturn hstatus

/-! ## The inversion lemma -/

/-- A step that leads to a next state is one of the listed moves. -/
theorem moves_of_step {s t : State} (h : step s = .next t) : Moves s t := by
  obtain ⟨hinbox, _⟩ | ⟨a, rest, hinbox, hperform⟩ := step_cases h
  · exact moves_of_coreTurn (.inl ⟨hinbox, rfl⟩) h
  · obtain ⟨off, b, rfl, hoff, rfl⟩ | ⟨r, v, rfl, rfl⟩ | ⟨r, rfl, rfl⟩ | ⟨off, rfl, _, rfl⟩ | ⟨rfl, rfl⟩ | ⟨rfl, _⟩ :=
      perform_cases hperform
    · exact .writeCmd hinbox hoff
    · obtain hnone | ⟨rfl, hv, hready, hlatch⟩ | ⟨rfl, hlen⟩ := State.writeReg_cases r v { s with inbox := rest }
      · rw [hnone]
        exact .writeNothing hinbox
      · rw [hlatch]
        exact .start hinbox hv hready
      · rw [hlen]
        exact .setCmdLen hinbox
    · exact .read _ _
    · exact .read _ _
    · exact .reset hinbox
    · exact moves_of_coreTurn (.inr hinbox) h

end Sys2Proof.Machine

/-! # The invariant (10_state.md sections 2 and 4, 60_exceptions.md section 1)

Each operation on the state keeps `State.Inv`; a step is one of them on the state with its input taken, which the invariant does
not look at. -/

namespace Sys2Proof.Machine

@[simp] theorem State.command_length (s : State) : s.command.length = s.cmdLen.toNat := by
  simp [State.command]

/-- The length that a write of `CMD_LEN` stores. -/
theorem toNat_storedCmdLen (v : Nat) : (BitVec.ofNat 9 (min v cmdCap)).toNat = min v cmdCap := by
  rw [BitVec.toNat_ofNat, Nat.mod_eq_of_lt]
  have : min v cmdCap ≤ 260 := Nat.min_le_right _ _
  omega

/-- The inbox is no part of the invariant. -/
theorem State.Inv.withInbox {s : State} (h : s.Inv) (rest : List Input) : ({ s with inbox := rest } : State).Inv := h

theorem State.Inv.writeCmd {s : State} (h : s.Inv) {off : Nat} (hoff : off < cmdCap) (b : Byte) : (s.writeCmd off b).Inv := by
  obtain ⟨hcfg, hlen, hcmd, hbelow, hrest⟩ := h
  exact ⟨hcfg, hlen, Memory.wf_write hcmd off b, Memory.below_write hbelow hoff b, hrest⟩

theorem State.Inv.setCmdLen {s : State} (h : s.Inv) (v : Nat) :
    ({ s with cmdLen := BitVec.ofNat 9 (min v cmdCap) } : State).Inv := by
  obtain ⟨hcfg, _, hrest⟩ := h
  exact ⟨hcfg, (toNat_storedCmdLen v).trans_le (Nat.min_le_right _ _), hrest⟩

theorem State.Inv.observe {s : State} (h : s.Inv) (o : Reply) : (s.observe o).Inv := h

theorem State.Inv.applyReset {s : State} (h : s.Inv) : s.applyReset.Inv := by
  obtain ⟨hcfg, _⟩ := h
  exact ⟨hcfg, Nat.zero_le _, Memory.wf_nil, by simp, Memory.wf_nil, rfl, Nat.zero_le _, rfl, rfl, rfl⟩

/-- `START` latches at most 260 bytes, and from `IDLE` and `DONE` no cause is pending. -/
theorem State.Inv.latch {s : State} (h : s.Inv) (hready : s.status = .idle ∨ s.status = .done) :
    (s.latch s.command).Inv := by
  obtain ⟨hcfg, hlen, hcmd, hbelow, _, _, _, hstatus⟩ := h
  have hcause : s.fcause = .none := by
    obtain hs | hs := hready <;> rw [hs] at hstatus <;> exact hstatus.2.1
  exact ⟨hcfg, hlen, hcmd, hbelow, Memory.wf_nil, rfl, by simpa using hlen, rfl, hcause⟩

/-- `RSP` lists exactly the bytes of the response, one to three words of them. -/
theorem State.Inv.respond {s : State} (h : s.Inv) (hbusy : s.status = .busy) {ws : List U64} (hpos : 1 ≤ ws.length)
    (hlen3 : ws.length ≤ 3) : (s.respond ws).Inv := by
  obtain ⟨hcfg, hlen, hcmd, hbelow, _, _, _, hstatus⟩ := h
  have hcause : s.fcause = .none := by
    rw [hbusy] at hstatus
    exact hstatus.2
  have hrspLen : (BitVec.ofNat 7 (32 * ws.length)).toNat = 32 * ws.length := by
    rw [BitVec.toNat_ofNat]
    omega
  refine ⟨hcfg, hlen, hcmd, hbelow, Memory.wf_block _ _, ?_, Nat.zero_le _, ?_, hcause, rfl⟩
  · rw [State.respond_rsp, Memory.map_fst_block, length_flatMap_abiWord, State.respond_rspLen, hrspLen, List.range_eq_range']
  · have hthree : ws.length = 1 ∨ ws.length = 2 ∨ ws.length = 3 := by omega
    obtain h1 | h2 | h3 := hthree
    · exact .inl (by rw [State.respond_rspLen, h1]; rfl)
    · exact .inr (.inl (by rw [State.respond_rspLen, h2]; rfl))
    · exact .inr (.inr (by rw [State.respond_rspLen, h3]; rfl))

theorem State.Inv.takeFault {s : State} (h : s.Inv) : (s.takeFault .shortCommand).Inv := by
  obtain ⟨hcfg, hlen, hcmd, hbelow, _⟩ := h
  exact ⟨hcfg, hlen, hcmd, hbelow, Memory.wf_nil, rfl, Nat.zero_le _, rfl, rfl, rfl⟩

/-- Settles O3: each move is an operation that keeps the invariant. -/
theorem everyStepKeepsTheInvariant : Obligations.EveryStepKeepsTheInvariant := by
  intro s t hs h
  cases moves_of_step h with
  | writeCmd _ hoff => exact (hs.withInbox _).writeCmd hoff _
  | start _ _ hready => exact (hs.withInbox _).latch hready
  | setCmdLen _ => exact (hs.withInbox _).setCmdLen _
  | writeNothing _ => exact hs.withInbox _
  | read o rest => exact (hs.withInbox _).observe o
  | reset _ => exact (hs.withInbox _).applyReset
  | wait _ _ => exact hs.withInbox _
  | respond _ hbusy hpos hlen => exact (hs.withInbox _).respond hbusy hpos hlen
  | takeFault _ _ => exact (hs.withInbox _).takeFault

/-- Settles O2: the default parameters are legal, and everything else is empty or 0. -/
theorem resetSatisfiesTheInvariant : Obligations.ResetSatisfiesTheInvariant :=
  ⟨by decide, Nat.zero_le _, Memory.wf_nil, by simp [State.reset], Memory.wf_nil, rfl, Nat.zero_le _, rfl, rfl, rfl⟩

end Sys2Proof.Machine

/-! # Reset (70_reset_and_hazards.md section 1) -/

namespace Sys2Proof.Machine

/-- Right after reset every byte of `CMD` is a free value of the period that the reset begins. -/
theorem State.cmdByte_applyReset (s : State) (off : Nat) :
    s.applyReset.cmdByte off = Config.cmdUnspecified (s.cmdEpoch + 1) off := rfl

/-- Outside `DONE` every byte of `RSP` is a free value. -/
theorem State.rspByte_of_not_done {s : State} (h : s.status ≠ .done) (off : Nat) :
    s.rspByte off = Config.rspUnspecified s.rspEpoch off := by
  rw [State.rspByte, if_neg fun hc => h hc.1]

/-- A pending reset is applied to the state with the input taken. -/
theorem step_of_reset {s : State} {rest : List Input} (h : s.inbox = .reset :: rest) :
    step s = .next (State.applyReset { s with inbox := rest }) := by
  rw [step_of_cons h, perform]

/-- Settles O1: reset writes every register and empties both buffers, so each byte is a free value of the new period. -/
theorem resetLeavesTheSpecifiedValues : Obligations.ResetLeavesTheSpecifiedValues := by
  constructor
  · exact ⟨rfl, rfl, rfl, rfl, rfl, fun _ => rfl, State.rspByte_of_not_done (by decide), rfl, rfl, rfl, rfl, rfl, rfl⟩
  · intro s rest hinbox
    exact ⟨_, step_of_reset hinbox, rfl, rfl, rfl, rfl, rfl, State.cmdByte_applyReset _,
      State.rspByte_of_not_done (by simp), rfl, rfl, rfl⟩

end Sys2Proof.Machine

/-! # What every step moves and what it keeps -/

namespace Sys2Proof.Machine

/-- Settles O4: every move that changes `STATUS` is one of the drawn ones. -/
theorem statusMovesOnlyAlongTheDrawnTransitions : Obligations.StatusMovesOnlyAlongTheDrawnTransitions := by
  intro s t h
  cases moves_of_step h with
  | writeCmd | setCmdLen | writeNothing | read | wait => exact .inl rfl
  | start hinbox hv hready => exact .inr (.inl ⟨hready, rfl, _, _, hinbox, hv⟩)
  | reset hinbox => exact .inr (.inr (.inr ⟨rfl, _, hinbox⟩))
  | respond hturn hbusy => exact .inr (.inr (.inl ⟨hbusy, .inl rfl, hturn.inbox_eq⟩))
  | takeFault hturn hbusy => exact .inr (.inr (.inl ⟨hbusy, .inr rfl, hturn.inbox_eq⟩))

/-- Settles O8: the moves that change the outcome start from `IDLE`, `DONE` or `BUSY`, reset excepted. -/
theorem faultIsLeftByResetOnly : Obligations.FaultIsLeftByResetOnly := by
  intro s t hfault h
  cases moves_of_step h with
  | writeCmd | setCmdLen | writeNothing | read | wait => exact .inr ⟨hfault, rfl, rfl, rfl⟩
  | start _ _ hready => simp [hfault] at hready
  | reset hinbox => exact .inl ⟨rfl, rfl, _, hinbox⟩
  | respond _ hbusy => simp [hfault] at hbusy
  | takeFault _ hbusy => simp [hfault] at hbusy

/-- A response leaves alone what CORE never writes. -/
theorem keptByCore_respond {ws : List U64} (hlen : ws.length ≤ 3) (s : State) : KeptByCore s (s.respond ws) := by
  obtain ⟨_, _, _, _, _, _, hkept⟩ := answered_respond hlen s
  exact hkept

/-- The fault entry leaves alone what CORE never writes. -/
theorem keptByCore_takeFault (c : Cause) (s : State) : KeptByCore s (s.takeFault c) := by
  obtain ⟨_, _, _, _, _, hkept⟩ := faulted_takeFault c s
  exact hkept

theorem keptByCore_coreStep {s t : State} (h : coreStep s = .next t) : KeptByCore s t := by
  obtain ⟨_, hwait⟩ | ⟨_, hcomplete⟩ := coreStep_cases s
  · cases hwait.symm.trans h
    exact ⟨rfl, rfl, rfl, fun _ => rfl, rfl, rfl⟩
  · obtain ⟨ws, _, hlen, hws⟩ | hfault := complete_ends s
    · cases (hcomplete.trans hws).symm.trans h
      exact keptByCore_respond hlen s
    · cases (hcomplete.trans hfault).symm.trans h
      exact keptByCore_takeFault _ s

/-- Settles O20: no move writes `cfg`, and CORE's ends of a command keep `CMD` and `CMD_LEN`. -/
theorem parametersAndCommandBufferAreNotWrittenByCore : Obligations.ParametersAndCommandBufferAreNotWrittenByCore := by
  refine ⟨fun s t h => ?_, fun s t h => keptByCore_coreStep h⟩
  cases moves_of_step h <;> rfl

/-- Settles O22: in `DONE`, without an accepted `START` or a reset, no move touches the response. -/
theorem responseStaysUntilTheNextStart : Obligations.ResponseStaysUntilTheNextStart := by
  intro s t hdone h hnoReset hnoStart
  cases moves_of_step h with
  | writeCmd | setCmdLen | writeNothing | read | wait => exact ⟨hdone, rfl, fun _ => rfl⟩
  | start hinbox hv =>
    have := hnoStart _ _ hinbox
    omega
  | reset hinbox => exact absurd hinbox (hnoReset _)
  | respond _ hbusy => simp [hdone] at hbusy
  | takeFault _ hbusy => simp [hdone] at hbusy

/-- Settles O19: the words of `exec_eq_respond` are as many as the row says, at most three. -/
theorem responseLengthFollowsTheSelector : Obligations.ResponseLengthFollowsTheSelector := by
  intro i s
  obtain ⟨words, hlen, hexec⟩ := exec_eq_respond i
  obtain ⟨hdone, hrspLen, _⟩ := answered_respond ((hlen s.cfg).trans_le (resultWords_le_three i.op)) s
  exact ⟨_, hexec s, hdone, by rw [hrspLen, hlen]⟩

/-- Settles O5: in either form CORE's turn is the completing step, which runs the decoded instruction. -/
theorem stepRunsTheLatchedCommand : Obligations.StepRunsTheLatchedCommand := by
  intro s i hbusy hdecode
  refine ⟨fun hinbox => ?_, fun rest hinbox => ?_⟩
  · rw [step_of_busy hbusy hinbox]
    simp only [complete, hdecode]
  · rw [step_of_busy_coreTurn hbusy hinbox]
    simp only [complete, hdecode]

end Sys2Proof.Machine

/-! # Short commands (30_encoding.md section 2, 60_exceptions.md section 1) -/

namespace Sys2Proof

/-- Fewer than 4 bytes, or fewer than a known selector's arguments take, decode to a short command. -/
theorem decode_eq_shortCommand {bs : List Byte}
    (h : bs.length < 4 ∨ ∃ op : Op, memRead bs 0 4 = op.selector ∧ bs.length < 4 + 32 * op.arity) :
    decode bs = .shortCommand := by
  unfold decode
  obtain hlen | ⟨op, hsel, hlen⟩ := h
  · rw [if_pos hlen]
  · rw [hsel, ofSelector_selector]
    simp only [if_pos hlen, ite_self]

end Sys2Proof

namespace Sys2Proof.Machine

theorem complete_of_shortCommand {s : State} (h : decode s.latched = .shortCommand) :
    ∃ t, complete s = .next t ∧ Faulted s t .shortCommand :=
  ⟨_, by simp only [complete, h], faulted_takeFault .shortCommand s⟩

/-- Settles O6: either form of CORE's turn completes a command that decodes as too short. -/
theorem shortCommandTakesTheFault : Obligations.ShortCommandTakesTheFault := by
  intro s hbusy hshort
  have hdecode : decode s.latched = .shortCommand := decode_eq_shortCommand hshort
  refine ⟨fun hinbox => ?_, fun rest hinbox => ?_⟩
  · rw [step_of_busy hbusy hinbox]
    exact complete_of_shortCommand hdecode
  · rw [step_of_busy_coreTurn hbusy hinbox]
    exact complete_of_shortCommand (s := { s with inbox := rest }) hdecode

end Sys2Proof.Machine

/-! # HOST's inputs

Reads, writes and `START`, one equation each (10_state.md section 4, 20_memory.md sections 1 and 4). -/

namespace Sys2Proof.Machine

theorem step_of_writeCmd {s : State} {off : Nat} {b : Byte} {rest : List Input} (hinbox : s.inbox = .writeCmd off b :: rest)
    (hoff : off < cmdCap) : step s = .next (State.writeCmd off b { s with inbox := rest }) := by
  rw [step_of_cons hinbox, perform, if_pos hoff]

theorem step_of_writeReg {s : State} {r : Reg} {v : Nat} {rest : List Input} (hinbox : s.inbox = .writeReg r v :: rest) :
    step s = .next (State.writeReg r v { s with inbox := rest }) := by
  rw [step_of_cons hinbox, perform]

/-- An accepted `START` latches the buffered command. -/
theorem step_of_start {s : State} {v : Nat} {rest : List Input} (hready : s.status = .idle ∨ s.status = .done)
    (hinbox : s.inbox = .writeReg .ctrl v :: rest) (hv : v % 2 = 1) :
    step s = .next (State.latch s.command { s with inbox := rest }) := by
  rw [step_of_writeReg hinbox, State.writeReg_ctrl_start hv, State.start_of_ready (s := { s with inbox := rest }) hready]
  rfl

/-- The latch copies the bytes of `CMD` below `CMD_LEN`. -/
theorem State.command_getElem? {s : State} {off : Nat} (h : off < s.cmdLen.toNat) :
    s.command[off]? = some (s.cmdByte off) := by
  rw [State.command, List.getElem?_map, List.getElem?_range h]
  rfl

/-- Settles O9: an accepted `START` is `State.latch` of the buffered command. -/
theorem startLatchesTheBufferedCommand : Obligations.StartLatchesTheBufferedCommand := by
  intro s v rest hready hinbox hv
  exact ⟨_, step_of_start hready hinbox hv, rfl, rfl, s.command_length, fun _ => State.command_getElem?, fun _ => rfl,
    rfl, rfl, rfl, rfl, rfl⟩

/-- Settles O10: `START` without effect, a 0 in bit 0 of `CTRL` and a write to a read-only register leave the state alone. -/
theorem registerWritesStoreOrHaveNoEffect : Obligations.RegisterWritesStoreOrHaveNoEffect := by
  constructor
  · intro s v rest hinbox
    refine ⟨_, step_of_writeReg hinbox, ?_, rfl⟩
    rw [State.writeReg_cmdLen, State.readReg, toNat_storedCmdLen]
    simp only [cmdCap]
    split <;> omega
  · intro s r v rest hinbox hr
    rw [step_of_writeReg hinbox]
    obtain ⟨rfl, hstatus⟩ | ⟨rfl, hv⟩ | rfl | rfl | rfl := hr
    · obtain hv | hv := Nat.mod_two_eq_zero_or_one v
      · rw [State.writeReg_ctrl_zero hv]
      · rw [State.writeReg_ctrl_start hv, State.start_of_not_ready (s := { s with inbox := rest }) hstatus]
    · rw [State.writeReg_ctrl_zero hv]
    · rw [State.writeReg_status]
    · rw [State.writeReg_rspLen]
    · rw [State.writeReg_fcause]

/-- Settles O15: a read appends to the outbox, and what it appends is `State.readReg` or `State.rspByte`. -/
theorem hostReadsOnlyRecordTheirValue : Obligations.HostReadsOnlyRecordTheirValue := by
  refine ⟨fun s r rest hinbox => ?_, fun s off rest hinbox hoff => ?_, fun s => ⟨rfl, rfl, ?_, ?_, fun hdone => ?_⟩,
    fun s off b hdone hoff hmem hwf => ?_⟩
  · rw [step_of_cons hinbox]
    rfl
  · rw [step_of_cons hinbox, perform, if_pos hoff]
    rfl
  · rw [State.readReg]
    cases s.status <;> rfl
  · rw [State.readReg]
    cases s.fcause <;> rfl
  · rw [State.readReg, if_pos hdone]
  · rw [State.rspByte, if_pos ⟨hdone, hoff⟩, Memory.read?_of_mem hwf hmem]
    rfl

/-- Settles O23: the capacity test of `perform` decides each clause. -/
theorem hostAccessOutsideABufferStops : Obligations.HostAccessOutsideABufferStops := by
  refine ⟨fun s off b rest hinbox => ⟨fun hoff => ?_, fun hoff => ?_⟩,
    fun s off rest hinbox => ⟨fun hoff => ?_, fun hoff => ?_⟩⟩
  · rw [step_of_cons hinbox, perform, if_neg (Nat.not_lt.2 hoff)]
  · refine ⟨_, step_of_writeCmd hinbox hoff, ?_, fun k hk => ?_, rfl⟩
    · rw [State.cmdByte_writeCmd, if_pos rfl]
    · rw [State.cmdByte_writeCmd, if_neg hk]
      rfl
  · rw [step_of_cons hinbox, perform, if_neg (Nat.not_lt.2 hoff)]
  · exact ⟨_, by rw [step_of_cons hinbox, perform, if_pos hoff]⟩

end Sys2Proof.Machine

/-! # HOST's writes while BUSY (20_memory.md section 6, 70_reset_and_hazards.md section 3) -/

namespace Sys2Proof.Machine

/-- In `t` the command that runs in `s` is still running: all that its outcome depends on is the same. -/
def StillRuns (s t : State) : Prop :=
  t.status = .busy ∧ t.latched = s.latched ∧ t.cfg = s.cfg ∧ t.fcause = s.fcause

theorem StillRuns.trans {s t u : State} (hst : StillRuns s t) (htu : StillRuns t u) : StillRuns s u := by
  obtain ⟨_, hlatched, hcfg, hcause⟩ := hst
  obtain ⟨hbusy, hlatched', hcfg', hcause'⟩ := htu
  exact ⟨hbusy, hlatched'.trans hlatched, hcfg'.trans hcfg, hcause'.trans hcause⟩

/-- A write by HOST while `BUSY` is taken from the inbox, and the command runs on. -/
theorem step_of_hostWrite {s : State} (hbusy : s.status = .busy) {a : Input} {rest : List Input}
    (hinbox : s.inbox = a :: rest) (ha : a.isHostWrite) : ∃ t, step s = .next t ∧ t.inbox = rest ∧ StillRuns s t := by
  cases a with
  | writeCmd off b => exact ⟨_, step_of_writeCmd hinbox ha, rfl, hbusy, rfl, rfl, rfl⟩
  | writeReg r v =>
    refine ⟨_, step_of_writeReg hinbox, ?_⟩
    obtain hnone | ⟨_, _, hready, _⟩ | ⟨_, hlen⟩ := State.writeReg_cases r v { s with inbox := rest }
    · rw [hnone]
      exact ⟨rfl, hbusy, rfl, rfl, rfl⟩
    · simp [hbusy] at hready
    · rw [hlen]
      exact ⟨rfl, hbusy, rfl, rfl, rfl⟩
  | readReg | readRsp | reset | coreTurn => exact absurd ha id

/-- After all of HOST's pending writes the command still runs. -/
theorem runFor_hostWrites (as : List Input) {s : State} (hinbox : s.inbox = as) (hbusy : s.status = .busy)
    (hwrites : ∀ a ∈ as, a.isHostWrite) : ∃ t, runFor as.length s = .next t ∧ t.inbox = [] ∧ StillRuns s t := by
  induction as generalizing s with
  | nil => exact ⟨s, rfl, hinbox, hbusy, rfl, rfl, rfl⟩
  | cons a as ih =>
    obtain ⟨t, hstep, hrest, hruns⟩ := step_of_hostWrite hbusy hinbox (hwrites a List.mem_cons_self)
    obtain ⟨u, hrun, hnil, hruns'⟩ := ih hrest hruns.1 fun a ha => hwrites a (List.mem_cons_of_mem _ ha)
    exact ⟨u, (runFor_succ_of_next hstep _).trans hrun, hnil, hruns.trans hruns'⟩

/-- A command that still runs ends alike, with the same cause. -/
theorem complete_of_stillRuns {s t : State} (h : StillRuns s t) :
    ∃ u v, complete t = .next u ∧ complete s = .next v ∧ SameEnd v u ∧ u.fcause = v.fcause := by
  obtain ⟨_, hlatched, hcfg, hcause⟩ := h
  obtain ⟨ws, hws, hrespond⟩ | hfault := complete_determined s.latched s.cfg
  · exact ⟨_, _, hrespond t hlatched hcfg, hrespond s rfl rfl, sameEnd_respond hws s t, hcause⟩
  · exact ⟨_, _, hfault t hlatched, hfault s rfl, sameEnd_takeFault _ s t, rfl⟩

/-- Settles O11: the writes are taken one by one, and the command that then completes is the one that was running. -/
theorem hostWritesDoNotDisturbTheRunningCommand : Obligations.HostWritesDoNotDisturbTheRunningCommand := by
  intro s hbusy hwrites
  obtain ⟨t, hrun, hnil, hruns⟩ := runFor_hostWrites s.inbox rfl hbusy hwrites
  obtain ⟨u, v, hu, hv, ⟨_, hstatus, hlen, hbytes, _⟩, hcause⟩ :=
    complete_of_stillRuns (s := { s with inbox := [] }) hruns
  exact ⟨t, u, v, hrun, (step_of_busy hruns.1 hnil).trans hu,
    (step_of_busy (s := { s with inbox := [] }) hbusy rfl).trans hv, hstatus.symm, hlen.symm, hcause,
    fun off hoff => (hbytes off hoff).symm⟩

end Sys2Proof.Machine

/-! # Issuing a command (70_reset_and_hazards.md section 2) -/

namespace Sys2Proof.Machine

theorem runFor_add {s t : State} {m : Nat} (h : runFor m s = .next t) (n : Nat) : runFor (m + n) s = runFor n t := by
  induction m generalizing s with
  | zero =>
    cases h
    rw [Nat.zero_add]
  | succ m ih =>
    cases hstep : step s with
    | next u =>
      rw [runFor_succ_of_next hstep] at h
      rw [Nat.add_right_comm, runFor_succ_of_next hstep, ih h]
    | fault | refused => simp [runFor, hstep] at h

/-- HOST's writes of the bytes `bs` at `CMD` from offset `k` up. -/
def cmdWrites (k : Nat) (bs : List Byte) : List Input := (bs.zipIdx k).map fun p => .writeCmd p.2 p.1

theorem cmdWrites_cons (k : Nat) (b : Byte) (bs : List Byte) :
    cmdWrites k (b :: bs) = .writeCmd k b :: cmdWrites (k + 1) bs := rfl

theorem issue_eq (bs : List Byte) : issue bs = cmdWrites 0 bs ++ [.writeReg .cmdLen bs.length, .writeReg .ctrl 1] := rfl

/-- The writes put the bytes at their offsets, leave the others, and change nothing but `CMD`. -/
theorem runFor_cmdWrites (bs : List Byte) {k : Nat} (hcap : k + bs.length ≤ cmdCap) {s : State} {after : List Input}
    (hinbox : s.inbox = cmdWrites k bs ++ after) :
    ∃ m, runFor bs.length s = .next { s with inbox := after, cmd := m }
      ∧ ∀ off, ({ s with inbox := after, cmd := m } : State).cmdByte off
          = if k ≤ off then bs[off - k]?.getD (s.cmdByte off) else s.cmdByte off := by
  induction bs generalizing k s with
  | nil =>
    refine ⟨s.cmd, ?_, fun off => ?_⟩
    · rw [← show s.inbox = after from hinbox]
      rfl
    · simp [State.cmdByte]
  | cons b bs ih =>
    rw [List.length_cons] at hcap
    rw [cmdWrites_cons, List.cons_append] at hinbox
    obtain ⟨m, hrun, hbytes⟩ := ih (k := k + 1) (by omega)
      (s := State.writeCmd k b { s with inbox := cmdWrites (k + 1) bs ++ after }) rfl
    refine ⟨m, (runFor_succ_of_next (step_of_writeCmd hinbox (by omega)) _).trans hrun, fun off => ?_⟩
    have hwritten : ∀ off, (State.writeCmd k b { s with inbox := cmdWrites (k + 1) bs ++ after }).cmdByte off
        = if off = k then b else s.cmdByte off := fun off => State.cmdByte_writeCmd _ k off b
    refine (hbytes off).trans ?_
    rw [hwritten]
    obtain hlt | rfl | hgt := Nat.lt_trichotomy off k
    · rw [if_neg (by omega), if_neg (by omega), if_neg (by omega)]
    · rw [if_neg (by omega), if_pos rfl, if_pos le_rfl, Nat.sub_self]
      rfl
    · rw [if_pos (by omega), if_neg (by omega), if_pos (by omega), show off - k = off - (k + 1) + 1 by omega,
        List.getElem?_cons_succ]

/-- A buffer that holds `bs` from offset 0, with `CMD_LEN` their number, gives `bs` to the latch. -/
theorem State.command_eq {s : State} {bs : List Byte} (hlen : s.cmdLen.toNat = bs.length)
    (hbytes : ∀ off, off < bs.length → bs[off]? = some (s.cmdByte off)) : s.command = bs := by
  refine List.ext_getElem? fun off => ?_
  by_cases hoff : off < bs.length
  · rw [State.command_getElem? (hlen ▸ hoff), hbytes off hoff]
  · rw [List.getElem?_eq_none (by rw [State.command_length]; omega), List.getElem?_eq_none (by omega)]

/-- The last two inputs of `issue`: the stored length, then the latch of that many bytes. -/
theorem runFor_length_and_start {s : State} {n : Nat} (hready : s.status = .idle ∨ s.status = .done) (hn : n ≤ cmdCap)
    (hinbox : s.inbox = [.writeReg .cmdLen n, .writeReg .ctrl 1]) :
    ∃ t, runFor 2 s = .next t ∧ t.status = .busy ∧ t.latched = (s.writeReg .cmdLen n).command ∧ t.cmdLen.toNat = n
      ∧ t.inbox = [] ∧ t.cfg = s.cfg ∧ t.fcause = s.fcause := by
  have hlen : (s.writeReg .cmdLen n).cmdLen.toNat = n := (toNat_storedCmdLen n).trans (Nat.min_eq_left hn)
  have hstart : step (State.writeReg .cmdLen n { s with inbox := [.writeReg .ctrl 1] })
      = .next (State.latch (s.writeReg .cmdLen n).command { s.writeReg .cmdLen n with inbox := [] }) :=
    step_of_start hready rfl rfl
  refine ⟨_, ?_, rfl, State.latch_latched _ { s.writeReg .cmdLen n with inbox := [] }, hlen, rfl, rfl, rfl⟩
  rw [runFor_succ_of_next (step_of_writeReg hinbox), runFor_one, hstart]

/-- The inputs of `issue` lead to `BUSY` with exactly the issued bytes latched. -/
theorem runFor_issue {s : State} {bs : List Byte} (hready : s.status = .idle ∨ s.status = .done) (hcap : bs.length ≤ cmdCap)
    (hinbox : s.inbox = issue bs) :
    ∃ t, runFor (bs.length + 2) s = .next t ∧ t.status = .busy ∧ t.latched = bs ∧ t.cmdLen.toNat = bs.length
      ∧ t.inbox = [] ∧ t.cfg = s.cfg ∧ t.fcause = s.fcause := by
  obtain ⟨m, hrun, hbytes⟩ := runFor_cmdWrites bs (k := 0) (by omega) (hinbox.trans (issue_eq bs))
  obtain ⟨t, hrun', hbusy, hlatched, hlen, hkept⟩ :=
    runFor_length_and_start (s := { s with inbox := [.writeReg .cmdLen bs.length, .writeReg .ctrl 1], cmd := m })
      hready hcap rfl
  refine ⟨t, (runFor_add hrun 2).trans hrun', hbusy, hlatched.trans (State.command_eq ?_ fun off hoff => ?_), hlen, hkept⟩
  · exact (toNat_storedCmdLen _).trans (Nat.min_eq_left hcap)
  · refine Eq.trans ?_ (congrArg some (hbytes off).symm)
    rw [if_pos (Nat.zero_le _), Nat.sub_zero, List.getElem?_eq_getElem hoff]
    rfl

/-- Settles O16: the issued bytes are latched, and CORE's step is the dispatcher on them. -/
theorem issuedCommandRunsToItsOutcome : Obligations.IssuedCommandRunsToItsOutcome := by
  intro s bs hready hcap hinbox
  obtain ⟨t, hrun, hbusy, hlatched, hlen, hnil, hcfg, hcause⟩ := runFor_issue hready hcap hinbox
  have hlast : runFor (bs.length + 3) s = complete t := by
    rw [runFor_add hrun 1, runFor_one, step_of_busy hbusy hnil]
  suffices h : ∃ u, complete t = .next u ∧ _ by
    obtain ⟨u, hu, houtcome⟩ := h
    exact ⟨t, u, hrun, hbusy, hlatched, hlen, hnil, hcfg, hcause, hlast.trans hu, houtcome⟩
  cases hdecode : decode bs with
  | instr i =>
    obtain ⟨words, _, hexec⟩ := exec_eq_respond i
    exact ⟨_, by simp only [complete, hlatched, hdecode, hexec], hexec t⟩
  | unknownSelector sel =>
    exact ⟨_, by simp only [complete, hlatched, hdecode, answer_eq], answered_respond (by decide) t⟩
  | shortCommand =>
    exact ⟨_, by simp only [complete, hlatched, hdecode], faulted_takeFault .shortCommand t⟩

end Sys2Proof.Machine

/-! # Decoding by selector and length (30_encoding.md section 2)

A known selector with enough bytes decodes to its row, whose operands lie in the first `4 + 32 * arity` bytes. -/

namespace Sys2Proof

theorem decode_eq_instr {bs : List Byte} {op : Op} (hsel : memRead bs 0 4 = op.selector)
    (hlen : 4 + 32 * op.arity ≤ bs.length) : decode bs = .instr (op.build bs) := by
  unfold decode
  rw [if_neg (by omega), hsel, ofSelector_selector]
  simp only [if_neg (Nat.not_lt.2 hlen)]

/-- A number that is no operation's selector names no operation. -/
theorem ofSelector_eq_none {sel : Nat} (h : ∀ op : Op, sel ≠ op.selector) : Op.ofSelector sel = none := by
  cases ho : Op.ofSelector sel with
  | none => rfl
  | some op => exact absurd (selector_of_ofSelector ho).symm (h op)

/-- Bytes after argument word `i` do not change `A[i]`. -/
theorem argU64_append {bs : List Byte} {i : Nat} (h : 4 + 32 * (i + 1) ≤ bs.length) (extra : List Byte) :
    argU64 (bs ++ extra) i = argU64 bs i := by
  rw [argU64, argU64, memRead_append_left (by omega)]

/-- Bytes after argument word `i` do not change `A32[i]`. -/
theorem argU32_append {bs : List Byte} {i : Nat} (h : 4 + 32 * (i + 1) ≤ bs.length) (extra : List Byte) :
    argU32 (bs ++ extra) i = argU32 bs i := by
  rw [argU32, argU32, memRead_append_left (by omega)]

/-- An operation reads the argument words of its row and no other. -/
theorem Op.build_congr_of_arity {bs cs : List Byte} (op : Op) (h64 : ∀ i, i < op.arity → argU64 bs i = argU64 cs i)
    (h32 : ∀ i, i < op.arity → argU32 bs i = argU32 cs i) : op.build bs = op.build cs := by
  cases op <;> simp (disch := decide) only [Op.build, argPoint, argI64_eq_argU64, h64, h32]

theorem Op.build_append {bs : List Byte} (op : Op) (hlen : 4 + 32 * op.arity ≤ bs.length) (extra : List Byte) :
    op.build (bs ++ extra) = op.build bs :=
  op.build_congr_of_arity (fun _ _ => argU64_append (by omega) extra) (fun _ _ => argU32_append (by omega) extra)

/-- Bytes beyond the last argument do not change what a known command decodes to. -/
theorem decode_append_of_known {bs : List Byte} {op : Op} (hsel : memRead bs 0 4 = op.selector)
    (hlen : 4 + 32 * op.arity ≤ bs.length) (extra : List Byte) : decode (bs ++ extra) = decode bs := by
  have hsel' : memRead (bs ++ extra) 0 4 = op.selector := (memRead_append_left (by omega) extra).trans hsel
  rw [decode_eq_instr hsel hlen, decode_eq_instr hsel' (by rw [List.length_append]; omega), op.build_append hlen]

/-- Bytes beyond the selector do not change what an unknown command decodes to. -/
theorem decode_append_of_unknown {bs : List Byte} (h4 : 4 ≤ bs.length) (hsel : ∀ op : Op, memRead bs 0 4 ≠ op.selector)
    (extra : List Byte) : decode (bs ++ extra) = decode bs := by
  have hread : memRead (bs ++ extra) 0 4 = memRead bs 0 4 := memRead_append_left h4 extra
  have hrange := (ofSelector_eq_none_iff _).1 (ofSelector_eq_none hsel)
  rw [decode_eq_unknownSelector h4 hrange,
    decode_eq_unknownSelector (by rw [List.length_append]; omega) (hread.symm ▸ hrange), hread]

end Sys2Proof

namespace Sys2Proof.Machine

/-- Settles O13: the two commands decode alike. -/
theorem excessCommandBytesAreIgnored : Obligations.ExcessCommandBytesAreIgnored := by
  intro s bs extra hbusy hinbox h4 h
  refine step_latched_congr hbusy hinbox ?_
  obtain ⟨op, hsel, hlen⟩ | hsel := h
  · exact decode_append_of_known hsel hlen extra
  · exact decode_append_of_unknown h4 hsel extra

end Sys2Proof.Machine

/-! # Decoding inverts encoding (30_encoding.md sections 1, 2 and 7) -/

namespace Sys2Proof

/-- A read inside word `k` of a list of words is a read of that word. -/
theorem memRead_flatMap_abiWord {ws : List U64} {k : Nat} {w : U64} (hw : ws[k]? = some w) {off n : Nat} (hoff : off + n ≤ 32)
    (extra : List Byte) : memRead (ws.flatMap abiWord ++ extra) (32 * k + off) n = memRead (abiWord w) off n := by
  induction ws generalizing k with
  | nil => simp at hw
  | cons v ws ih =>
    rw [List.flatMap_cons, List.append_assoc]
    cases k with
    | zero =>
      obtain rfl : v = w := by simpa using hw
      rw [Nat.mul_zero, Nat.zero_add, memRead_append_left (by simpa using hoff)]
    | succ k =>
      have hshift : 32 * (k + 1) + off = (abiWord v).length + (32 * k + off) := by rw [abiWord_length]; ring
      rw [hshift, memRead_append_right, ih hw]

/-- A read inside argument word `k` of an encoded command is a read of that word. -/
theorem memRead_encode {i : Instr} {k : Nat} (hk : k < i.args.length) {off n : Nat} (hoff : off + n ≤ 32)
    (extra : List Byte) :
    memRead (encode i ++ extra) (4 + 32 * k + off) n = memRead (abiWord (i.args.getD k 0#64)) off n := by
  have hword : i.args[k]? = some (i.args.getD k 0#64) := by simp [hk]
  have hshift : 4 + 32 * k + off = (beBytes 4 i.op.selector).length + (32 * k + off) := by rw [beBytes_length]; ring
  rw [encode, List.append_assoc, hshift, memRead_append_right, memRead_flatMap_abiWord hword hoff]

theorem argU64_encode {i : Instr} {k : Nat} (hk : k < i.args.length) (extra : List Byte) :
    argU64 (encode i ++ extra) k = i.args.getD k 0#64 := by
  rw [argU64, memRead_encode hk (by decide), memRead_abiWord, BitVec.ofNat_toNat, BitVec.setWidth_eq]

theorem argU32_encode {i : Instr} {k : Nat} (hk : k < i.args.length) (extra : List Byte) :
    argU32 (encode i ++ extra) k = (i.args.getD k 0#64).setWidth 32 := by
  rw [argU32, memRead_encode hk (by decide), memRead_abiWord_low]
  exact BitVec.eq_of_toNat_eq (by simp)

/-- The one pair of words that is not read as a finite point is the one that well-formedness shuts out. -/
theorem pointOfWords_of_wellFormed {x y : U64} (h : (Point.coord x y).wellFormed = true) :
    pointOfWords x y = .coord x y := by
  have hne : ¬(x = u64Ones ∧ y = u64Ones) := fun ⟨hx, hy⟩ => by simp [Point.wellFormed, hx, hy] at h
  rw [pointOfWords, if_neg hne]

theorem pointOfWords_ones : pointOfWords u64Ones u64Ones = .infinity := rfl

theorem args_length (i : Instr) : i.args.length = i.op.arity := by
  cases i with
  | padd p q a modulus => exact (Laws.EncodedForm.padd p q a modulus).1
  | pdbl p a modulus => exact (Laws.EncodedForm.pdbl p a modulus).1
  | _ => rfl

/-- Reading the operands of a row back from an encoded command gives the instruction, if it is well-formed: each operand stands in
its own word. -/
theorem build_encode {i : Instr} (hwf : i.wellFormed = true) (extra : List Byte) : i.op.build (encode i ++ extra) = i := by
  cases i with
  | padd p q a modulus =>
    obtain ⟨hp, hq⟩ : p.wellFormed = true ∧ q.wellFormed = true := by simpa [Instr.wellFormed] using hwf
    cases p <;> cases q <;>
      simp [Op.build, Instr.op, argPoint, argU64_encode, Instr.args, Point.words, pointOfWords_ones,
        pointOfWords_of_wellFormed, hp, hq]
  | pdbl p a modulus =>
    have hp : p.wellFormed = true := hwf
    cases p <;>
      simp [Op.build, Instr.op, argPoint, argU64_encode, Instr.args, Point.words, pointOfWords_ones,
        pointOfWords_of_wellFormed, hp]
  | rotl x n | rotr x n => simp [Op.build, Instr.op, argU64_encode, argU32_encode, Instr.args]
  | _ => simp [Op.build, Instr.op, argI64_eq_argU64, argU64_encode, Instr.args]

/-- Settles O17: the selector finds the row, the length is the row's, and each operand reads back from its word. -/
theorem decodeInvertsEncode : Obligations.DecodeInvertsEncode := by
  intro i extra hwf
  have hsel : memRead (encode i ++ extra) 0 4 = i.op.selector := by
    rw [encode, List.append_assoc, memRead_selector]
  have hlen : 4 + 32 * i.op.arity ≤ (encode i ++ extra).length := by
    rw [List.length_append, encode_length, args_length]
    omega
  rw [decode_eq_instr hsel hlen, build_encode hwf]

/-- Settles O18: the three byte lists are what `encode` writes for the three instructions. -/
theorem sampleCommandsDecode : Obligations.SampleCommandsDecode :=
  ⟨decodeInvertsEncode (.mul 250#64 300#64) [] rfl, decodeInvertsEncode (.sin 2100#64) [] rfl,
    decodeInvertsEncode (.pdbl (.coord 5#64 1#64) 2#64 16#64) [] rfl⟩

end Sys2Proof

namespace Sys2Proof.Machine

/-- A point that has an encoding reads back from its result words. -/
theorem pointOfResult_words {p : Point} (hp : p.wellFormed = true) :
    ∃ x y, p.words = [x, y] ∧ pointOfResult 1#64 x y = some p := by
  cases p with
  | infinity => exact ⟨_, _, rfl, rfl⟩
  | coord x y => exact ⟨x, y, rfl, by rw [pointOfResult, if_pos rfl, pointOfWords_of_wellFormed hp]⟩

/-- Settles O21: a presence word tells the cases apart, and only the sentinel pair reads back as another point. -/
theorem optionalAndPointSurviveTheWire : Obligations.OptionalAndPointSurviveTheWire := by
  refine ⟨fun w => ?_, fun v => ?_, fun v hv => ?_, ⟨_, _, _, rfl, rfl⟩⟩
  · rw [memRead_abiWord, BitVec.ofNat_toNat, BitVec.setWidth_eq]
  · cases v with
    | none => exact ⟨_, _, rfl, rfl⟩
    | some w => exact ⟨_, _, rfl, by simp [optionOfWords, wordU]⟩
  · cases v with
    | none => exact ⟨_, _, _, rfl, rfl⟩
    | some p =>
      obtain ⟨x, y, hwords, hread⟩ := pointOfResult_words (hv p rfl)
      exact ⟨1#64, x, y, by rw [pointWords, hwords], hread⟩

/-! # What an instruction's statement needs

Each names the commands that decode to it and the words it answers: the first is `decode_eq_instr` for the row, the second
`answered_respond`. -/

/-- The commands of a row decode to what the row builds from their bytes. -/
theorem decodesTo (op : Op) : DecodesTo op.selector op.arity (fun bs => op.build bs) := by
  intro bs hsel hlen
  exact decode_eq_instr hsel hlen

end Sys2Proof.Machine
namespace Sys2Proof.Machine

/-- An instruction whose meaning is the answer `ws` completes with the response `ws`, here spelled as the statement spells it. -/
theorem exec_answers {i : Instr} {s : State} {ws ws' : List U64} (hexec : exec i s = answer ws s) (hws : ws = ws')
    (hlen : ws.length ≤ 3 := by simp) : ∃ t, exec i s = .next t ∧ Answered s t ws' :=
  ⟨_, hexec, hws ▸ answered_respond hlen s⟩

end Sys2Proof.Machine

/-! # Fixed-Point Core (40_fixed_point.md) -/

namespace Sys2Proof.Machine

@[simp] theorem wordU_toNat (w : U64) : wordU w.toNat = w := by
  rw [wordU, BitVec.ofNat_toNat, BitVec.setWidth_eq]

theorem toNat_wordU {v : Nat} (h : v ≤ u64Max) : (wordU v).toNat = v := by
  rw [wordU, BitVec.toNat_ofNat, Nat.mod_eq_of_lt]
  simp only [u64Max] at h
  omega

/-- Settles O24: the product is `fxMul`. -/
theorem mulSaturatesThenDividesBy100 : Obligations.MulSaturatesThenDividesBy100 :=
  ⟨decodesTo .mul, fun a b _ => exec_answers rfl (by rw [fxMul_eq, wordU])⟩

/-- Settles O25: a nonzero divisor divides the clamped numerator. -/
theorem divSaturatesThenDivides : Obligations.DivSaturatesThenDivides := by
  refine ⟨decodesTo .div, fun a b s => exec_answers rfl ?_⟩
  by_cases hb : b = 0#64
  · rw [if_pos hb, hb]
    rfl
  · have hb' : b.toNat ≠ 0 := fun h => hb (BitVec.eq_of_toNat_eq h)
    rw [if_neg hb, fxDiv_eq hb', wordU]

/-- Settles O26: below 10 the square is below 100, and from `2^32` on it saturates. -/
theorem squareSaturatesThenDividesBy100 : Obligations.SquareSaturatesThenDividesBy100 := by
  refine ⟨decodesTo .square, fun n s => ?_⟩
  obtain ⟨t, hexec, hanswered⟩ := exec_answers (i := .square n) (s := s) rfl rfl
  refine ⟨t, _, hexec, hanswered, by rw [fxMul_eq, wordU], fun hn => ?_, fun hn => ?_⟩
  · have hsquare : n.toNat * n.toNat ≤ 9 * 9 := Nat.mul_le_mul hn hn
    have hzero : fxMul n.toNat n.toNat = 0 := by rw [fxMul_eq]; omega
    rw [hzero]
    rfl
  · have hsquare : 4294967296 * 4294967296 ≤ n.toNat * n.toNat := Nat.mul_le_mul hn hn
    have htop : fxMul n.toNat n.toNat = 184467440737095516 := by
      rw [fxMul_eq, Nat.min_eq_right (by simp only [u64Max]; omega)]
      rfl
    rw [htop]
    rfl

/-- Settles O28: the two tests of `clampValue` are the two tests of the statement. -/
theorem clampTestsTheLowerBoundFirst : Obligations.ClampTestsTheLowerBoundFirst := by
  refine ⟨decodesTo .clamp, fun v lo hi s => ?_⟩
  obtain ⟨t, hexec, hanswered⟩ := exec_answers (i := .clamp v lo hi) (s := s) rfl rfl
  refine ⟨t, _, hexec, hanswered, ?_⟩
  simp only [clampValue, BitVec.lt_def, BitVec.le_def, ← BitVec.toNat_inj]
  by_cases hlo : v.toNat < lo.toNat
  · rw [if_pos hlo, wordU_toNat]
    omega
  · by_cases hhi : hi.toNat < v.toNat
    · rw [if_neg hlo, if_pos hhi, wordU_toNat]
      omega
    · rw [if_neg hlo, if_neg hhi, wordU_toNat]
      omega

/-! ## LERP -/

/-- A hundredth of a difference times at most 100 is at most the difference. -/
theorem fxMul_le_of_le_100 {d k : Nat} (hk : k ≤ 100) : fxMul d k ≤ d := by
  rw [fxMul_eq]
  have hprod : d * k ≤ d * 100 := Nat.mul_le_mul_left d hk
  omega

theorem satu_sub_natCast (a b : Nat) (ha : a ≤ u64Max) : satu ((a : Int) - b) = a - b := by
  simp only [satu, u64Max] at *
  split
  · omega
  · split <;> omega

theorem lerpValue_of_le {start stop : Nat} (h : start ≤ stop) (hstop : stop ≤ u64Max) (t : Nat) :
    lerpValue start stop t = start + fxMul (stop - start) (min t 100) := by
  have hstep := fxMul_le_of_le_100 (d := stop - start) (Nat.min_le_right t 100)
  have htc : (if t > 100 then 100 else t) = min t 100 := by split <;> omega
  have hnone : fxMul (start - stop) (min t 100) = 0 := by simp [Nat.sub_eq_zero_of_le h, fxMul_eq]
  simp only [lerpValue, htc]
  rw [satu_sub_natCast stop start hstop, satu_sub_natCast start stop (h.trans hstop), hnone, ← Nat.cast_add,
    satu_natCast, satu_sub_natCast _ _ (Nat.min_le_right _ _)]
  omega

theorem lerpValue_of_ge {start stop : Nat} (h : stop ≤ start) (hstart : start ≤ u64Max) (t : Nat) :
    lerpValue start stop t = start - fxMul (start - stop) (min t 100) := by
  have htc : (if t > 100 then 100 else t) = min t 100 := by split <;> omega
  have hnone : fxMul (stop - start) (min t 100) = 0 := by simp [Nat.sub_eq_zero_of_le h, fxMul_eq]
  simp only [lerpValue, htc]
  rw [satu_sub_natCast stop start (h.trans hstart), satu_sub_natCast start stop hstart, hnone, ← Nat.cast_add,
    satu_natCast, satu_sub_natCast _ _ (Nat.min_le_right _ _)]
  omega

theorem toNat_le_u64Max (w : U64) : w.toNat ≤ u64Max := by
  have := w.isLt
  simp only [u64Max]
  omega

/-- Settles O29: the step is at most the difference, so neither sum nor difference is clamped. -/
theorem lerpStepsTowardTheEnd : Obligations.LerpStepsTowardTheEnd := by
  refine ⟨decodesTo .lerp, fun a b k s => ?_⟩
  obtain ⟨t, hexec, hanswered⟩ := exec_answers (i := .lerp a b k) (s := s) rfl rfl
  refine ⟨t, _, hexec, hanswered, fun hle => ?_, fun hlt => ?_⟩
  · have hab : a.toNat ≤ b.toNat := hle
    have hstep := fxMul_le_of_le_100 (d := b.toNat - a.toNat) (Nat.min_le_right k.toNat 100)
    have hb := toNat_le_u64Max b
    rw [BitVec.le_def, lerpValue_of_le hab hb, toNat_wordU (by omega), fxMul_eq]
    rw [fxMul_eq] at hstep
    omega
  · have hba : b.toNat ≤ a.toNat := Nat.le_of_lt hlt
    have hstep := fxMul_le_of_le_100 (d := a.toNat - b.toNat) (Nat.min_le_right k.toNat 100)
    have ha := toNat_le_u64Max a
    rw [BitVec.le_def, lerpValue_of_ge hba ha, toNat_wordU (by omega), fxMul_eq]
    rw [fxMul_eq] at hstep
    omega

/-! ## SQRT

The loop steps from `x` to `(x + s / x) / 2`. A step never falls below the root and lowers every value above it, so the loop, which
starts at `s`, stops at the root. -/

/-- A Newton step from any positive value stays at or above the root. -/
theorem sqrt_le_newtonStep (s y : Nat) (hy : 0 < y) : Nat.sqrt s ≤ (y + s / y) / 2 := by
  have hlt : s < (s / y + 1) * y := by
    rw [Nat.mul_comm]
    exact Nat.lt_mul_div_succ s hy
  have hs := Nat.sqrt_le s
  rw [Nat.le_div_iff_mul_le (by decide)]
  by_contra hcon
  nlinarith [sq_nonneg ((y : ℤ) - Nat.sqrt s)]

/-- A value above the root is lowered by the step. -/
theorem newtonStep_lt {s x : Nat} (h : Nat.sqrt s < x) : (x + s / x) / 2 < x := by
  have hx : s / x < x := by
    rw [Nat.div_lt_iff_lt_mul (by omega)]
    exact Nat.sqrt_lt.1 h
  omega

/-- From at or above the root, with its next step at hand, the loop ends at the root. -/
theorem newtonLoop_eq_sqrt {s fuel x : Nat} (hpos : 0 < s) (hx : Nat.sqrt s ≤ x) (hfuel : x ≤ fuel) :
    newtonLoop s fuel x ((x + s / x) / 2) = Nat.sqrt s := by
  have hroot : 0 < Nat.sqrt s := Nat.sqrt_pos.2 hpos
  induction fuel generalizing x with
  | zero => omega
  | succ fuel ih =>
    rw [newtonLoop]
    have hstep := sqrt_le_newtonStep s x (by omega)
    obtain heq | hlt := hx.eq_or_lt
    · rw [if_neg (by omega), heq]
    · have hlower := newtonStep_lt hlt
      rw [if_pos hlower, ih hstep (by omega)]

theorem newtonRoot_eq_sqrt (s : Nat) : newtonRoot s = Nat.sqrt s := by
  rw [newtonRoot]
  split
  · next h => rw [h, Nat.sqrt_zero]
  · next h =>
    have hpos : 0 < s := Nat.pos_of_ne_zero h
    have hfirst := newtonLoop_eq_sqrt hpos (Nat.sqrt_le_self s) le_rfl
    rwa [Nat.div_self hpos] at hfirst

theorem fsqrt_eq (n : Nat) : fsqrt n = Nat.sqrt (min (100 * n) u64Max) := by
  have hsatu := satu_mul_natCast n 100
  rw [Nat.cast_ofNat] at hsatu
  rw [fsqrt, newtonRoot_eq_sqrt, hsatu, Nat.mul_comm]

/-- Settles O27: the loop ends at the floor root. -/
theorem sqrtIsTheFloorRootOfTheScaledValue : Obligations.SqrtIsTheFloorRootOfTheScaledValue :=
  ⟨decodesTo .sqrt, fun n _ => exec_answers rfl (by rw [fsqrt_eq, wordU])⟩

end Sys2Proof.Machine

/-! # Trigonometric Engine (41_trig.md) -/

namespace Sys2Proof.Machine

/-- The fold by quadrant number and reversed index is the sine written out per quadrant. -/
theorem sinfold_eq_sineOf (table : List Nat) (angle : Nat) : sinfold table angle = sineOf table angle := by
  simp only [sinfold, sineOf]
  have ha : angle % 3600 < 3600 := Nat.mod_lt _ (by decide)
  generalize angle % 3600 = a at ha
  by_cases h0 : a < 900
  · have hq : a / 900 = 0 := by omega
    have hoff : a % 900 = a := by omega
    simp [hq, hoff, h0]
  · by_cases h1 : a < 1800
    · have hq : a / 900 = 1 := by omega
      have hoff : a % 900 = a - 900 := by omega
      simp [hq, hoff, h0, h1]
    · by_cases h2 : a < 2700
      · have hq : a / 900 = 2 := by omega
        have hoff : a % 900 = a - 1800 := by omega
        simp [hq, hoff, h0, h1, h2]
      · have hq : a / 900 = 3 := by omega
        have hoff : a % 900 = a - 2700 := by omega
        simp [hq, hoff, h0, h1, h2]

theorem cosfold_eq_cosineOf (table : List Nat) (angle : U64) : cosfold table angle.toNat = cosineOf table angle := by
  rw [cosfold, cosineOf, sinfold_eq_sineOf, BitVec.toNat_add]
  rfl

/-- In a legal table no entry is above the last, which is 10000. -/
theorem sinTable_getD_le {c : Config} (hwf : c.wf = true) {k : Nat} (hk : k ≤ 90) : c.sinTable.getD k 0 ≤ 10000 := by
  simp only [Config.wf, Bool.and_eq_true, beq_iff_eq, List.all_eq_true, List.mem_range, decide_eq_true_eq] at hwf
  obtain ⟨⟨⟨_, hlast⟩, hmono⟩, _⟩ := hwf
  rw [← hlast]
  induction hk using Nat.decreasingInduction with
  | of_succ k hk ih => exact (hmono k hk).trans ih
  | self => exact le_rfl

theorem sineOf_bounds {c : Config} (hwf : c.wf = true) (angle : Nat) :
    -100 ≤ sineOf c.sinTable angle ∧ sineOf c.sinTable angle ≤ 100 := by
  have hentry : ∀ k, k ≤ 90 → c.sinTable.getD k 0 / 100 ≤ 100 := fun k hk =>
    Nat.div_le_of_le_mul (sinTable_getD_le hwf hk)
  have ha : angle % 3600 < 3600 := Nat.mod_lt _ (by decide)
  simp only [sineOf]
  generalize angle % 3600 = a at ha
  split
  · have := hentry (a / 10) (by omega)
    omega
  · split
    · have := hentry (90 - (a - 900) / 10) (by omega)
      omega
    · split
      · have := hentry ((a - 1800) / 10) (by omega)
        omega
      · have := hentry (90 - (a - 2700) / 10) (by omega)
        omega

/-- Settles O30: both fold the table by quadrant, and a legal table stays at or below 10000. -/
theorem sinAndCosFoldTheTable : Obligations.SinAndCosFoldTheTable :=
  ⟨decodesTo .sin, decodesTo .cos, fun angle s =>
    ⟨exec_answers rfl (by rw [sinfold_eq_sineOf, wordI]), exec_answers rfl (by rw [cosfold_eq_cosineOf, wordI]),
      fun hwf => sineOf_bounds hwf _⟩⟩

end Sys2Proof.Machine

/-! # Geometry Engine (42_geometry.md) -/

namespace Sys2Proof.Machine

theorem sati_eq_nearestI64 (v : Int) : sati v = nearestI64 v := sati_eq_max_min v

theorem smul_eq_fxProduct (a b : Int) : smul a b = fxProduct a b := by
  rw [smul, sati_eq_nearestI64, fxProduct]

theorem sdiv_eq (a b : Int) : sdiv a b = nearestI64 ((nearestI64 (a * 100)).tdiv b) := by
  rw [sdiv, sati_eq_nearestI64, sati_eq_nearestI64]

theorem nearestI64_bounds (v : Int) : i64Min ≤ nearestI64 v ∧ nearestI64 v ≤ i64Max := by
  rw [← sati_eq_nearestI64]
  exact sati_bounds v

theorem nearestI64_of_mem {v : Int} (hmin : i64Min ≤ v) (hmax : v ≤ i64Max) : nearestI64 v = v := by
  rw [← sati_eq_nearestI64, sati_of_mem hmin hmax]

theorem fxProduct_bounds (a b : Int) : -92233720368547758 ≤ fxProduct a b ∧ fxProduct a b ≤ 92233720368547758 := by
  rw [← smul_eq_fxProduct]
  exact smul_bounds a b

@[simp] theorem wordI_toInt (w : I64) : wordI w.toInt = w := by
  rw [wordI, BitVec.ofInt_toInt]

@[simp] theorem wordI_zero : wordI 0 = 0#64 := rfl

/-- The truth word of a decided proposition. -/
theorem wordB_decide (p : Prop) [Decidable p] : wordB (decide p) = if p then 1#64 else 0#64 := by
  by_cases hp : p <;> simp [wordB, hp]

/-! ## Positions -/

theorem absDiff_eq (a b : Nat) : absDiff a b = ((a : Int) - b).natAbs := by
  rw [absDiff]
  split <;> omega

/-- The sum of two fixed-point products is far below `U64_MAX`, so it is never clamped. -/
theorem sqdistValue_eq (x1 y1 x2 y2 : Nat) :
    sqdistValue x1 y1 x2 y2
      = min (((x1 : Int) - x2).natAbs * ((x1 : Int) - x2).natAbs) u64Max / 100
        + min (((y1 : Int) - y2).natAbs * ((y1 : Int) - y2).natAbs) u64Max / 100 := by
  rw [sqdistValue, ← Nat.cast_add, satu_natCast, fxMul_eq, fxMul_eq, absDiff_eq, absDiff_eq]
  refine Nat.min_eq_left ?_
  have hx := Nat.min_le_right (((x1 : Int) - x2).natAbs * ((x1 : Int) - x2).natAbs) u64Max
  have hy := Nat.min_le_right (((y1 : Int) - y2).natAbs * ((y1 : Int) - y2).natAbs) u64Max
  simp only [u64Max] at *
  omega

/-- Settles O31: the sum never reaches the clamp. -/
theorem sqdistAndDistMeasurePositions : Obligations.SqdistAndDistMeasurePositions :=
  ⟨decodesTo .sqdist, decodesTo .dist, fun _ _ _ _ _ =>
    ⟨exec_answers rfl (by rw [sqdistValue_eq, wordU]), exec_answers rfl (by rw [fsqrt_eq, sqdistValue_eq, wordU])⟩⟩

/-- Settles O35: both tests are decided propositions over the positions. -/
theorem rectangleAndCircleContainTheirBoundary : Obligations.RectangleAndCircleContainTheirBoundary :=
  ⟨decodesTo .inrect, decodesTo .incirc,
    fun px py minX minY maxX maxY s => exec_answers rfl (by rw [inRectValue, wordB_decide]; rfl),
    fun px py cx cy r s => exec_answers rfl (by rw [inCircValue, wordB_decide, sqdistValue_eq, fxMul_eq])⟩

/-! ## Products of directions -/

theorem dotValue_eq (aX aY bX bY : Int) : dotValue aX aY bX bY = fxProduct aX bX + fxProduct aY bY := by
  have hx := fxProduct_bounds aX bX
  have hy := fxProduct_bounds aY bY
  rw [dotValue, smul_eq_fxProduct, smul_eq_fxProduct]
  exact sati_of_mem (by simp only [i64Min]; omega) (by simp only [i64Max]; omega)

theorem crossValue_eq (aX aY bX bY : Int) : crossValue aX aY bX bY = fxProduct aX bY - fxProduct aY bX := by
  have hx := fxProduct_bounds aX bY
  have hy := fxProduct_bounds aY bX
  rw [crossValue, smul_eq_fxProduct, smul_eq_fxProduct]
  exact sati_of_mem (by simp only [i64Min]; omega) (by simp only [i64Max]; omega)

/-- Settles O32: neither sum nor difference reaches the clamp. -/
theorem dotAndCrossCombineSignedProducts : Obligations.DotAndCrossCombineSignedProducts :=
  ⟨decodesTo .dot, decodesTo .cross, fun _ _ _ _ _ =>
    ⟨exec_answers rfl (by rw [dotValue_eq, wordI]), exec_answers rfl (by rw [crossValue_eq, wordI])⟩⟩

/-- A hundred times a squared length fits `u64`. -/
theorem squaredLength_le (x y : Int) : 100 * (fxProduct x x + fxProduct y y).toNat ≤ u64Max := by
  have hx := fxProduct_bounds x x
  have hy := fxProduct_bounds y y
  simp only [u64Max]
  omega

theorem magValue_eq (x y : Int) : magValue x y = magnitudeOf x y := by
  rw [magValue, fsqrt_eq, dotValue_eq, Nat.min_eq_left (squaredLength_le x y), magnitudeOf]

theorem magnitudeOf_le (x y : Int) : magnitudeOf x y ≤ 4294967295 := by
  have hle := squaredLength_le x y
  refine Nat.le_of_lt_succ (Nat.sqrt_lt.2 ?_)
  simp only [u64Max] at hle
  omega

/-- Settles O33: the squared length at scale 100 is below `2^64`, so its root is below `2^32`. -/
theorem magIsTheFloorRootOfTheSquaredLength : Obligations.MagIsTheFloorRootOfTheSquaredLength := by
  refine ⟨decodesTo .mag, fun x y s => ?_⟩
  obtain ⟨t, hexec, hanswered⟩ := exec_answers (i := .mag x y) (s := s)
    (ws' := [BitVec.ofNat 64 (magnitudeOf x.toInt y.toInt)]) rfl (by rw [magValue_eq, wordU])
  exact ⟨t, hexec, hanswered, magnitudeOf_le _ _⟩

/-! ## Vectors -/

theorem sint64_of_lt {u : Nat} (h : u < 2 ^ 63) : sint64 u = u := if_pos h

/-- The ratio of a bound to a larger magnitude is below 100 and needs no clamp. -/
theorem sint64_ratio {max m : Nat} (hlt : max < m) (hm : m ≤ 4294967295) : sint64 (fxDiv max m) = (max * 100 / m : Nat) := by
  have hdiv : max * 100 / m ≤ 100 := Nat.div_le_of_le_mul (by omega)
  rw [fxDiv_eq (by omega), Nat.min_eq_left (by simp only [u64Max]; omega), sint64_of_lt (by omega)]

/-- Settles O34: the ratio of a bound to a longer magnitude needs no clamp. -/
theorem clampmagRescalesOnlyLongVectors : Obligations.ClampmagRescalesOnlyLongVectors := by
  refine ⟨decodesTo .clampmag, fun x y max s => exec_answers rfl ?_⟩
  simp only [clampMagValue, magValue_eq]
  by_cases hle : magnitudeOf x.toInt y.toInt ≤ max.toNat
  · rw [if_pos hle, if_neg (Nat.not_lt.2 hle), wordI_toInt, wordI_toInt]
  · have hlt : max.toNat < magnitudeOf x.toInt y.toInt := Nat.lt_of_not_le hle
    rw [if_neg hle, if_pos hlt, sint64_ratio hlt (magnitudeOf_le _ _), smul_eq_fxProduct, smul_eq_fxProduct, wordI, wordI]

/-- Settles O36: the clamp of each component is the nearest integer in `i64`. -/
theorem vectorAlgebraClampsEachComponent : Obligations.VectorAlgebraClampsEachComponent :=
  ⟨decodesTo .vadd, decodesTo .vsub, decodesTo .vscale,
    fun _ _ _ _ _ => ⟨exec_answers rfl (by simp only [sati_eq_nearestI64, wordI]),
      exec_answers rfl (by simp only [sati_eq_nearestI64, wordI])⟩,
    fun _ _ _ _ => exec_answers rfl (by simp only [smul_eq_fxProduct, wordI])⟩

/-- Dividing a value inside `i64` by a natural number stays inside `i64`. -/
theorem nearestI64_tdiv_natCast {v : Int} (hmin : i64Min ≤ v) (hmax : v ≤ i64Max) (m : Nat) :
    nearestI64 (v.tdiv m) = v.tdiv m := by
  have habs : (v.tdiv m).natAbs ≤ v.natAbs := by
    rw [Int.natAbs_tdiv]
    exact Nat.div_le_self _ _
  have hneg : v ≤ 0 → 0 ≤ -v.tdiv m := fun h => by
    rw [← Int.neg_tdiv]
    exact Int.tdiv_nonneg (by omega) (Int.natCast_nonneg m)
  simp only [i64Min, i64Max] at hmin hmax
  refine nearestI64_of_mem ?_ ?_ <;> simp only [i64Min, i64Max]
  · omega
  · omega

theorem sdiv_sint64 (x : Int) {m : Nat} (hm : m ≤ 4294967295) : sdiv x (sint64 m) = (nearestI64 (x * 100)).tdiv m := by
  obtain ⟨hmin, hmax⟩ := nearestI64_bounds (x * 100)
  rw [sdiv_eq, sint64_of_lt (by omega), nearestI64_tdiv_natCast hmin hmax]

/-- Settles O37: a magnitude is far below `2^63`, and dividing by it never leaves `i64`. -/
theorem vnormDividesByTheMagnitude : Obligations.VnormDividesByTheMagnitude := by
  refine ⟨decodesTo .vnorm, fun x y s => exec_answers rfl ?_⟩
  simp only [vnormValue, magValue_eq]
  split
  · rw [wordI_zero]
  · rw [sdiv_sint64 _ (magnitudeOf_le _ _), sdiv_sint64 _ (magnitudeOf_le _ _), wordI, wordI]

/-- Twice a dot product is inside `i64`. -/
theorem sati_two_mul_dotValue (aX aY bX bY : Int) :
    sati (2 * dotValue aX aY bX bY) = 2 * (fxProduct aX bX + fxProduct aY bY) := by
  have hx := fxProduct_bounds aX bX
  have hy := fxProduct_bounds aY bY
  rw [dotValue_eq]
  exact sati_of_mem (by simp only [i64Min]; omega) (by simp only [i64Max]; omega)

/-- Settles O38: the clamp of the doubled dot product never acts. -/
theorem vrotAndVreflTransformDirections : Obligations.VrotAndVreflTransformDirections :=
  ⟨decodesTo .vrot, decodesTo .vrefl,
    fun _ _ _ _ => exec_answers rfl
      (by simp only [vrotValue, cosfold_eq_cosineOf, sinfold_eq_sineOf, sati_eq_nearestI64, smul_eq_fxProduct, wordI]),
    fun _ _ _ _ _ => exec_answers rfl
      (by simp only [vreflValue, sati_two_mul_dotValue]; simp only [sati_eq_nearestI64, smul_eq_fxProduct, wordI])⟩

/-! ## INTRI -/

theorem edgeCross_eq_edgeOf (uX uY vX vY pX pY : U64) :
    edgeCross uX.toNat uY.toNat vX.toNat vY.toNat pX.toNat pY.toNat = edgeOf uX uY vX vY pX pY := by
  simp only [edgeCross, posDiff, sati_eq_nearestI64, crossValue_eq, edgeOf]

theorem fxProduct_comm (a b : Int) : fxProduct a b = fxProduct b a := by
  rw [fxProduct, Int.mul_comm, fxProduct]

/-- Seen from its start an edge has no cross product. -/
theorem edgeOf_start (uX uY vX vY : U64) : edgeOf uX uY vX vY uX uY = 0 := by
  simp [edgeOf, fxProduct, nearestI64]

/-- Seen from its end an edge has no cross product. -/
theorem edgeOf_end (uX uY vX vY : U64) : edgeOf uX uY vX vY vX vY = 0 := by
  rw [edgeOf, fxProduct_comm, sub_self]

/-- Settles O39: at a vertex two of the three cross products are 0, and the third agrees with one of the signs. -/
theorem intriIsTheSameSignTest : Obligations.IntriIsTheSameSignTest := by
  refine ⟨decodesTo .intri, fun px py aX aY bX bY cX cY s => ?_⟩
  obtain ⟨t, hexec, hanswered⟩ := exec_answers (i := .intri px py aX aY bX bY cX cY) (s := s) rfl rfl
  refine ⟨t, _, hexec, hanswered, ?_, fun hvertex => ?_⟩
  · simp only [inTriValue, edgeCross_eq_edgeOf, wordB_decide, ge_iff_le]
  · simp only [inTriValue, edgeCross_eq_edgeOf, wordB_decide, ge_iff_le, Prod.mk.injEq] at hvertex ⊢
    refine if_pos ?_
    obtain ⟨rfl, rfl⟩ | ⟨rfl, rfl⟩ | ⟨rfl, rfl⟩ := hvertex
    · have hsign := le_total 0 (edgeOf bX bY cX cY px py)
      simpa [edgeOf_start, edgeOf_end] using hsign
    · have hsign := le_total 0 (edgeOf cX cY aX aY px py)
      simpa [edgeOf_start, edgeOf_end] using hsign
    · have hsign := le_total 0 (edgeOf aX aY bX bY px py)
      simpa [edgeOf_start, edgeOf_end] using hsign

end Sys2Proof.Machine

/-! # Trajectory Composer (47_trajectory.md) -/

namespace Sys2Proof.Machine

theorem projDen_eq (v0 c : Int) :
    projDen v0 c = fxProduct (nearestI64 (2 * fxProduct v0 v0)) (fxProduct c c) := by
  simp only [projDen, smul_eq_fxProduct, sati_eq_nearestI64]

/-- Settles O58: the sentinels are tested in the statement's order. -/
theorem projComposesTheTrajectory : Obligations.ProjComposesTheTrajectory := by
  refine ⟨decodesTo .proj, fun angle v0 g s => exec_answers rfl ?_⟩
  simp only [projValue, cosfold_eq_cosineOf, sinfold_eq_sineOf, projDen_eq, sdiv_eq, sati_eq_nearestI64]
  split
  · rfl
  · split
    · rfl
    · rw [wordI, wordI]

end Sys2Proof.Machine

/-! # Number-Theory Engine, modular part (43_modular.md) -/

namespace Sys2Proof.Machine

/-! ## MODEXP -/

/-- Square-and-multiply: with enough rounds for the exponent's bits, the loop multiplies `r` by `b ^ e`. -/
theorem modexpLoop_eq {m fuel r b e : Nat} (hr : r < m) (he : e < 2 ^ fuel) :
    modexpLoop m fuel r b e = r * b ^ e % m := by
  induction fuel generalizing r b e with
  | zero =>
    obtain rfl : e = 0 := by simpa using he
    rw [modexpLoop, pow_zero, Nat.mul_one, Nat.mod_eq_of_lt hr]
  | succ fuel ih =>
    rw [modexpLoop]
    split
    · next h => rw [h, pow_zero, Nat.mul_one, Nat.mod_eq_of_lt hr]
    · have hhalf : e / 2 < 2 ^ fuel := by rw [pow_succ] at he; omega
      have hsquare : (b * b % m) ^ (e / 2) ≡ b ^ (2 * (e / 2)) [MOD m] := by
        rw [pow_mul, pow_two]
        exact (Nat.mod_modEq _ _).pow _
      obtain heven | hodd := Nat.mod_two_eq_zero_or_one e
      · rw [if_neg (by omega), mulmod, ih hr hhalf]
        have hpow : b ^ e = b ^ (2 * (e / 2)) := by rw [Nat.mul_div_cancel' (Nat.dvd_of_mod_eq_zero heven)]
        rw [hpow]
        exact hsquare.mul_left r
      · rw [if_pos hodd, mulmod, mulmod, ih (Nat.mod_lt _ (by omega)) hhalf]
        have he2 : e = 2 * (e / 2) + 1 := by omega
        have hpow : r * b ^ e = r * b * b ^ (2 * (e / 2)) := by
          conv_lhs => rw [he2, pow_succ]
          ring
        rw [hpow]
        exact (Nat.mod_modEq _ _).mul hsquare

theorem modexpValue_eq {m e : Nat} (hm : 1 < m) (he : e < 2 ^ 64) (b : Nat) : modexpValue b e m = b ^ e % m := by
  rw [modexpValue, if_neg (by omega), modexpLoop_eq hm he, Nat.one_mul, ← Nat.pow_mod]

/-- Settles O40: the loop multiplies by all powers the exponent's bits select. -/
theorem modexpIsThePowerModuloTheModulus : Obligations.ModexpIsThePowerModuloTheModulus := by
  refine ⟨decodesTo .modexp, fun base exp m s => exec_answers rfl ?_⟩
  by_cases hm : m.toNat ≤ 1
  · rw [if_pos hm, modexpValue, if_pos (by omega)]
    rfl
  · rw [if_neg hm, modexpValue_eq (by omega) exp.isLt, wordU]

/-! ## GCD and LCM -/

theorem gcdLoop_eq {fuel a b : Nat} (hfuel : b ≤ fuel) : gcdLoop fuel a b = Nat.gcd a b := by
  induction fuel generalizing a b with
  | zero =>
    obtain rfl : b = 0 := by omega
    rw [gcdLoop, Nat.gcd_zero_right]
  | succ fuel ih =>
    rw [gcdLoop]
    split
    · next h => rw [h, Nat.gcd_zero_right]
    · have hlt : a % b < b := Nat.mod_lt a (by omega)
      rw [ih (by omega), Nat.gcd_comm a b, Nat.gcd_rec b a, Nat.gcd_comm]

theorem gcdValue_eq (a b : Nat) : gcdValue a b = Nat.gcd a b := gcdLoop_eq le_rfl

theorem lcmValue_eq (a b : Nat) : lcmValue a b = min (Nat.lcm a b) u64Max := by
  rw [lcmValue, gcdValue_eq]
  split
  · next h => obtain rfl | rfl := h <;> simp
  · rw [satu_mul_natCast, Nat.lcm, Nat.div_mul_right_comm (Nat.gcd_dvd_left a b)]

/-- Settles O43: the loop is Euclid's. -/
theorem gcdIsTheGreatestCommonDivisor : Obligations.GcdIsTheGreatestCommonDivisor :=
  ⟨decodesTo .gcd, fun _ _ _ => exec_answers rfl (by rw [gcdValue_eq, wordU])⟩

/-- Settles O44: the quotient by the gcd times the other operand is the least common multiple, before the clamp. -/
theorem lcmIsTheLeastCommonMultipleClamped : Obligations.LcmIsTheLeastCommonMultipleClamped :=
  ⟨decodesTo .lcm, fun _ _ _ => exec_answers rfl (by rw [lcmValue_eq, wordU])⟩

/-! ## MODINV

The extended Euclid loop keeps the gcd and both Bezout congruences. The coefficients alternate in sign, and their magnitudes
weighted by the opposite remainders add up to the modulus: that bounds the coefficient that is answered. -/

/-- What the loop keeps, for `a` and the modulus `m`. -/
structure EuclidInv (a m r0 r1 : Nat) (t0 t1 : Int) : Prop where
  lt : r1 < r0
  gcd_eq : Nat.gcd r0 r1 = Nat.gcd a m
  dvd_first : (m : Int) ∣ t0 * a - r0
  dvd_second : (m : Int) ∣ t1 * a - r1
  bound : t0.natAbs < m
  weights : t1.natAbs * r0 + t0.natAbs * r1 = m
  signs : (t0 ≤ 0 ∧ 0 ≤ t1) ∨ (0 ≤ t0 ∧ t1 ≤ 0)

theorem EuclidInv.initial {m : Nat} (hm : 0 < m) (a : Nat) : EuclidInv a m m (a % m) 0 1 where
  lt := Nat.mod_lt a hm
  gcd_eq := by rw [Nat.gcd_comm, ← Nat.gcd_rec, Nat.gcd_comm]
  dvd_first := by simp
  dvd_second := by
    rw [one_mul, Int.natCast_mod]
    exact Int.dvd_self_sub_emod
  bound := hm
  weights := by simp
  signs := .inl ⟨le_rfl, by decide⟩

/-- The magnitudes of coefficients of opposite signs add up when one is subtracted a number of times from the other. -/
theorem natAbs_sub_mul_of_signs {t0 t1 : Int} (h : (t0 ≤ 0 ∧ 0 ≤ t1) ∨ (0 ≤ t0 ∧ t1 ≤ 0)) (q : Nat) :
    (t0 - q * t1).natAbs = t0.natAbs + q * t1.natAbs
      ∧ ((t1 ≤ 0 ∧ 0 ≤ t0 - q * t1) ∨ (0 ≤ t1 ∧ t0 - q * t1 ≤ 0)) := by
  obtain ⟨h0, h1⟩ | ⟨h0, h1⟩ := h
  · obtain ⟨u0, rfl⟩ := Int.exists_eq_neg_ofNat h0
    obtain ⟨u1, rfl⟩ := Int.eq_ofNat_of_zero_le h1
    have heq : (-(u0 : Int) - q * u1) = -((u0 + q * u1 : Nat) : Int) := by push_cast; ring
    rw [heq]
    exact ⟨by simp only [Int.natAbs_neg, Int.natAbs_natCast], .inr ⟨h1, by omega⟩⟩
  · obtain ⟨u0, rfl⟩ := Int.eq_ofNat_of_zero_le h0
    obtain ⟨u1, rfl⟩ := Int.exists_eq_neg_ofNat h1
    have heq : ((u0 : Int) - q * -u1) = ((u0 + q * u1 : Nat) : Int) := by push_cast; ring
    rw [heq]
    exact ⟨by simp only [Int.natAbs_neg, Int.natAbs_natCast], .inl ⟨h1, by omega⟩⟩

/-- One round of the loop keeps the invariant. -/
theorem EuclidInv.next {a m r0 r1 : Nat} {t0 t1 : Int} (h : EuclidInv a m r0 r1 t0 t1) (hr1 : r1 ≠ 0) :
    EuclidInv a m r1 (r0 - r0 / r1 * r1) t1 (t0 - (r0 / r1 : Nat) * t1) := by
  obtain ⟨hmagnitude, hsigns⟩ := natAbs_sub_mul_of_signs h.signs (r0 / r1)
  have hrem : r0 - r0 / r1 * r1 = r0 % r1 := by
    have := Nat.mod_add_div' r0 r1
    omega
  have hsplit : ((r0 % r1 : Nat) : Int) = r0 - (r0 / r1 : Nat) * r1 := by
    have hcast := congrArg (Nat.cast (R := Int)) (Nat.mod_add_div' r0 r1)
    rw [Nat.cast_add, Nat.cast_mul] at hcast
    linarith
  rw [hrem]
  constructor
  case lt => exact Nat.mod_lt r0 (Nat.pos_of_ne_zero hr1)
  case gcd_eq => rw [Nat.gcd_comm, ← Nat.gcd_rec, Nat.gcd_comm, h.gcd_eq]
  case dvd_first => exact h.dvd_second
  case dvd_second =>
    obtain ⟨k0, hk0⟩ := h.dvd_first
    obtain ⟨k1, hk1⟩ := h.dvd_second
    exact ⟨k0 - (r0 / r1 : Nat) * k1, by rw [hsplit]; linear_combination hk0 - ((r0 / r1 : Nat) : Int) * hk1⟩
  case bound =>
    have hlt := h.lt
    have hweights := h.weights
    have hdouble : t1.natAbs * 2 ≤ t1.natAbs * r0 := Nat.mul_le_mul_left _ (by omega)
    have hbound := h.bound
    omega
  case weights =>
    rw [hmagnitude, ← h.weights]
    conv_rhs => rw [← Nat.mod_add_div' r0 r1]
    ring
  case signs => exact hsigns

/-- The loop ends with the gcd and a bounded Bezout coefficient of it. -/
theorem euclidLoop_spec {a m fuel r0 r1 : Nat} {t0 t1 : Int} (h : EuclidInv a m r0 r1 t0 t1) (hfuel : r1 ≤ fuel) :
    (euclidLoop fuel r0 r1 t0 t1).1 = Nat.gcd a m
      ∧ (m : Int) ∣ (euclidLoop fuel r0 r1 t0 t1).2 * a - (Nat.gcd a m : Nat)
      ∧ (euclidLoop fuel r0 r1 t0 t1).2.natAbs < m := by
  have hend : r1 = 0 → r0 = Nat.gcd a m := fun h0 => by rw [← h.gcd_eq, h0, Nat.gcd_zero_right]
  induction fuel generalizing r0 r1 t0 t1 with
  | zero =>
    rw [euclidLoop]
    exact ⟨hend (by omega), hend (by omega) ▸ h.dvd_first, h.bound⟩
  | succ fuel ih =>
    rw [euclidLoop]
    split
    · next h0 => exact ⟨hend h0, hend h0 ▸ h.dvd_first, h.bound⟩
    · next h0 =>
      have hnext := h.next h0
      have hlt := hnext.lt
      exact ih hnext (by omega) fun hz => by rw [← hnext.gcd_eq, hz, Nat.gcd_zero_right]

/-- The loop as `modinv` starts it. -/
theorem euclidLoop_initial {m : Nat} (hm : m ≠ 0) (a : Nat) :
    (euclidLoop m m (a % m) 0 1).1 = Nat.gcd a m
      ∧ (m : Int) ∣ (euclidLoop m m (a % m) 0 1).2 * a - (Nat.gcd a m : Nat)
      ∧ (euclidLoop m m (a % m) 0 1).2.natAbs < m :=
  have hpos : 0 < m := Nat.pos_of_ne_zero hm
  euclidLoop_spec (.initial hpos a) (Nat.mod_lt a hpos).le

/-- No inverse: modulus 0 or a common factor. -/
theorem modinvValue_eq_none {a m : Nat} (h : m = 0 ∨ Nat.gcd a m ≠ 1) : modinvValue a m = none := by
  rw [modinvValue]
  split
  · rfl
  · next hm =>
    obtain ⟨hgcd, _⟩ := euclidLoop_initial hm a
    exact if_pos (hgcd ▸ h.resolve_left hm)

/-- The inverse modulo `m` of a number coprime to it, in `[0, m)`. -/
theorem modinvValue_eq_some {a m : Nat} (hm : m ≠ 0) (hgcd : Nat.gcd a m = 1) :
    ∃ x, modinvValue a m = some x ∧ x < m ∧ a * x ≡ 1 [MOD m] := by
  obtain ⟨hone, hdvd, hbound⟩ := euclidLoop_initial hm a
  rw [hgcd] at hone hdvd
  rw [modinvValue, if_neg hm]
  simp only [hone, ne_eq, not_true_eq_false, if_false]
  generalize (euclidLoop m m (a % m) 0 1).2 = t at hdvd hbound
  refine ⟨_, rfl, by split <;> omega, (Nat.modEq_iff_dvd).2 ?_⟩
  obtain ⟨k, hk⟩ := hdvd
  push_cast
  split
  · rw [Int.toNat_of_nonneg (by omega)]
    exact ⟨-k - a, by linear_combination -hk⟩
  · rw [Int.toNat_of_nonneg (by omega)]
    exact ⟨-k, by linear_combination -hk⟩

theorem optionWords_none : optionWords none = [0#64, 0#64] := rfl

theorem optionWords_some (v : Nat) : optionWords (some v) = [1#64, wordU v] := rfl

/-- Settles O41: two inverses below `m` agree, since `a` cancels modulo `m`. -/
theorem modinvIsTheUniqueInverseOrAbsent : Obligations.ModinvIsTheUniqueInverseOrAbsent := by
  refine ⟨decodesTo .modinv, fun a m s => ?_⟩
  by_cases h : m.toNat = 0 ∨ Nat.gcd a.toNat m.toNat ≠ 1
  · obtain ⟨t, hexec, hanswered⟩ := exec_answers (i := .modinv a m) (s := s) rfl
      (by rw [modinvValue_eq_none h, optionWords_none])
    exact ⟨t, _, _, hexec, hanswered, fun _ => ⟨rfl, rfl⟩, fun h' => by omega⟩
  · obtain ⟨hm, hgcd⟩ : m.toNat ≠ 0 ∧ Nat.gcd a.toNat m.toNat = 1 := by omega
    obtain ⟨x, hx, hlt, hinv⟩ := modinvValue_eq_some hm hgcd
    obtain ⟨t, hexec, hanswered⟩ := exec_answers (i := .modinv a m) (s := s) rfl (by rw [hx, optionWords_some])
    have hword : (wordU x).toNat = x := toNat_wordU (hlt.le.trans (toNat_le_u64Max m))
    refine ⟨t, _, _, hexec, hanswered, fun h' => absurd h' h, fun _ => ⟨rfl, hword.symm ▸ hlt, hword.symm ▸ hinv, ?_⟩⟩
    intro y hy hinv'
    have hmod : y ≡ x [MOD m.toNat] :=
      Nat.ModEq.cancel_left_of_coprime (by rwa [Nat.gcd_comm]) (Nat.ModEq.trans hinv' hinv.symm)
    rw [hword, ← Nat.mod_eq_of_lt hy, ← Nat.mod_eq_of_lt hlt]
    exact hmod

/-! ## ISPRIME -/

/-- Stripping the factors of two keeps the product and ends in an odd part. -/
theorem oddPart_spec {fuel d r : Nat} (hpos : 0 < d) (hfuel : d ≤ fuel) :
    (oddPart fuel d r).1 % 2 = 1 ∧ (oddPart fuel d r).1 * 2 ^ (oddPart fuel d r).2 = d * 2 ^ r := by
  induction fuel generalizing d r with
  | zero => omega
  | succ fuel ih =>
    rw [oddPart]
    split
    · next heven =>
      obtain ⟨hodd, hprod⟩ := ih (d := d / 2) (r := r + 1) (by omega) (by omega)
      refine ⟨hodd, hprod.trans ?_⟩
      conv_rhs => rw [show d = d / 2 * 2 by omega]
      ring
    · exact ⟨by omega, rfl⟩

/-- A number has one odd part. -/
theorem oddPart_unique {d d' r r' : Nat} (hd : d % 2 = 1) (hd' : d' % 2 = 1) (h : d * 2 ^ r = d' * 2 ^ r') :
    d = d' ∧ r = r' := by
  have hcoprime : ∀ {k : Nat}, k % 2 = 1 → ∀ j, Nat.Coprime k (2 ^ j) := fun hk j =>
    Nat.Coprime.pow_right j (Nat.coprime_two_right.2 (Nat.odd_iff.2 hk))
  have hdd : d = d' := Nat.dvd_antisymm ((hcoprime hd r').dvd_of_dvd_mul_right (h ▸ Nat.dvd_mul_right d _))
    ((hcoprime hd' r).dvd_of_dvd_mul_right (h.symm ▸ Nat.dvd_mul_right d' _))
  refine ⟨hdd, Nat.pow_right_injective le_rfl ?_⟩
  exact Nat.eq_of_mul_eq_mul_left (by omega : 0 < d) (h.trans (by rw [hdd]))

/-- `n - 1` appears among the first `k` squares of `x`. -/
theorem squaresReach_iff {n k x : Nat} :
    squaresReach n k x = true ↔ ∃ j, 1 ≤ j ∧ j ≤ k ∧ x ^ 2 ^ j % n = n - 1 := by
  induction k generalizing x with
  | zero =>
    rw [squaresReach]
    exact ⟨fun h => by simp at h, fun ⟨j, h1, h0, _⟩ => by omega⟩
  | succ k ih =>
    have hnext : ∀ j, (x * x % n) ^ 2 ^ j % n = x ^ 2 ^ (j + 1) % n := fun j => by
      rw [← Nat.pow_mod, ← pow_two, ← pow_mul, ← pow_succ']
    rw [squaresReach, mulmod]
    split
    · next h => exact ⟨fun _ => ⟨1, le_rfl, by omega, by rw [pow_one, pow_two, h]⟩, fun _ => rfl⟩
    · next h =>
      rw [ih]
      constructor
      · rintro ⟨j, h1, hk, hj⟩
        exact ⟨j + 1, by omega, by omega, (hnext j).symm.trans hj⟩
      · rintro ⟨j, h1, hk, hj⟩
        obtain rfl | ⟨j, rfl⟩ : j = 1 ∨ ∃ i, j = i + 1 + 1 := by
          obtain h2 | h2 := Nat.lt_or_ge j 2
          · exact .inl (by omega)
          · exact .inr ⟨j - 2, by omega⟩
        · exact absurd (by rw [← pow_two, ← pow_one 2, hj]) h
        · exact ⟨j + 1, by omega, by omega, (hnext (j + 1)).trans hj⟩

/-- The strong probable prime condition to the base `a`, for `n - 1 = d * 2 ^ r`. -/
def StrongProbablePrime (n d r a : Nat) : Prop :=
  a ^ d % n = 1 ∨ ∃ j, j < r ∧ a ^ (d * 2 ^ j) % n = n - 1

theorem witnessPasses_iff {n d r a : Nat} (hn : 1 < n) (hd : d < 2 ^ 64) (hr : 0 < r) :
    witnessPasses n d r a = true ↔ n ∣ a ∨ StrongProbablePrime n d r a := by
  have hpow : ∀ j, (a ^ d % n) ^ 2 ^ j % n = a ^ (d * 2 ^ j) % n := fun j => by rw [← Nat.pow_mod, ← pow_mul]
  rw [witnessPasses, Nat.dvd_iff_mod_eq_zero]
  split
  · next h => exact ⟨fun _ => .inl h, fun _ => rfl⟩
  · next h =>
    rw [modexpValue_eq hn hd, or_iff_right h, StrongProbablePrime]
    simp only
    split
    · next hx =>
      refine ⟨fun _ => hx.imp id fun hminus => ⟨0, hr, ?_⟩, fun _ => rfl⟩
      rwa [pow_zero, Nat.mul_one]
    · next hx =>
      obtain ⟨hone, hminus⟩ := not_or.1 hx
      rw [squaresReach_iff, or_iff_right hone]
      constructor
      · rintro ⟨j, _, hj, hsq⟩
        exact ⟨j, by omega, (hpow j).symm.trans hsq⟩
      · rintro ⟨j, hj, hsq⟩
        have hj0 : j ≠ 0 := by
          rintro rfl
          rw [pow_zero, Nat.mul_one] at hsq
          exact hminus hsq
        exact ⟨j, by omega, by omega, (hpow j).trans hsq⟩

/-- The test of `ISPRIME` past its short-circuit cases. -/
def PassesWitnesses (n : Nat) : Prop :=
  ∃ d r, d % 2 = 1 ∧ n - 1 = d * 2 ^ r ∧ ∀ a ∈ witnesses, n ∣ a ∨ StrongProbablePrime n d r a

theorem isPrimeValue_iff {n : Nat} (hn : n < 2 ^ 64) :
    isPrimeValue n = true ↔ n = 2 ∨ n = 3 ∨ (2 ≤ n ∧ n % 2 = 1 ∧ n % 3 ≠ 0 ∧ PassesWitnesses n) := by
  rw [isPrimeValue]
  split
  · exact ⟨fun h => by simp at h, fun h => by omega⟩
  · split
    · next h => exact ⟨fun _ => by omega, fun _ => rfl⟩
    · split
      · exact ⟨fun h => by simp at h, fun h => by omega⟩
      · obtain ⟨hodd, hprod⟩ := oddPart_spec (fuel := n - 1) (d := n - 1) (r := 0) (by omega) le_rfl
        generalize oddPart (n - 1) (n - 1) 0 = f at hodd hprod
        rw [pow_zero, Nat.mul_one] at hprod
        have hr : 0 < f.2 := by
          by_contra hzero
          rw [Nat.eq_zero_of_not_pos hzero, pow_zero] at hprod
          omega
        have hd : f.1 < 2 ^ 64 := by
          have := Nat.le_mul_of_pos_right f.1 (Nat.two_pow_pos f.2)
          omega
        simp only [List.all_eq_true, witnessPasses_iff (show 1 < n by omega) hd hr]
        constructor
        · exact fun h => .inr (.inr ⟨by omega, by omega, by omega, f.1, f.2, hodd, hprod.symm, h⟩)
        · rintro (h | h | ⟨_, _, _, d, r, hodd', hprod', h⟩)
          · omega
          · omega
          · obtain ⟨rfl, rfl⟩ := oddPart_unique hodd' hodd (hprod'.symm.trans hprod.symm)
            exact h

/-- In a field, if repeated squaring of `x` reaches 1 then `x` is 1 or passes through -1. -/
theorem eq_one_or_neg_one_of_pow_two_pow {F : Type} [Field F] {x : F} {r : Nat} (h : x ^ 2 ^ r = 1) :
    x = 1 ∨ ∃ j, j < r ∧ x ^ 2 ^ j = -1 := by
  induction r with
  | zero => exact .inl (by simpa using h)
  | succ r ih =>
    rw [pow_succ, pow_mul] at h
    obtain hone | hminus := mul_self_eq_one_iff.1 ((pow_two _).symm.trans h)
    · exact (ih hone).imp id fun ⟨j, hj, hx⟩ => ⟨j, by omega, hx⟩
    · exact .inr ⟨r, by omega, hminus⟩

/-- A prime passes every witness: Fermat's little theorem, and no further square roots of 1. -/
theorem strongProbablePrime_of_prime {n d r a : Nat} (hn : n.Prime) (hprod : n - 1 = d * 2 ^ r) (ha : ¬n ∣ a) :
    StrongProbablePrime n d r a := by
  have := Fact.mk hn
  have hbase : (a : ZMod n) ≠ 0 := fun h => ha ((ZMod.natCast_eq_zero_iff a n).1 h)
  have hfermat : ((a : ZMod n) ^ d) ^ 2 ^ r = 1 := by rw [← pow_mul, ← hprod, ZMod.pow_card_sub_one_eq_one hbase]
  refine (eq_one_or_neg_one_of_pow_two_pow hfermat).imp (fun hone => ?_) fun ⟨j, hj, hminus⟩ => ⟨j, hj, ?_⟩
  · have hcast : ((a ^ d : Nat) : ZMod n) = (1 : Nat) := by push_cast; exact hone
    rw [(ZMod.natCast_eq_natCast_iff' _ _ n).1 hcast, Nat.mod_eq_of_lt hn.one_lt]
  · have hcast : ((a ^ (d * 2 ^ j) : Nat) : ZMod n) = (n - 1 : Nat) := by
      rw [Nat.cast_sub hn.one_le]
      push_cast
      rw [pow_mul, hminus, ZMod.natCast_self, zero_sub]
    rw [(ZMod.natCast_eq_natCast_iff' _ _ n).1 hcast, Nat.mod_eq_of_lt (Nat.sub_lt hn.pos Nat.one_pos)]

theorem isPrimeValue_of_prime {n : Nat} (hn : n.Prime) (hlt : n < 2 ^ 64) : isPrimeValue n = true := by
  rw [isPrimeValue_iff hlt]
  by_cases h2 : n = 2
  · exact .inl h2
  by_cases h3 : n = 3
  · exact .inr (.inl h3)
  have hodd : n % 2 = 1 := hn.eq_two_or_odd.resolve_left h2
  have hthree : n % 3 ≠ 0 := fun h => h3 ((Nat.prime_dvd_prime_iff_eq Nat.prime_three hn).1 (Nat.dvd_of_mod_eq_zero h)).symm
  obtain ⟨hd, hprod⟩ := oddPart_spec (fuel := n - 1) (d := n - 1) (r := 0) (Nat.sub_pos_of_lt hn.one_lt) le_rfl
  rw [pow_zero, Nat.mul_one] at hprod
  exact .inr (.inr ⟨hn.two_le, hodd, hthree, _, _, hd, hprod.symm, fun a _ =>
    or_iff_not_imp_left.2 (strongProbablePrime_of_prime hn hprod.symm)⟩)

theorem wordB_eq_one_iff (b : Bool) : wordB b = 1#64 ↔ b = true := by
  cases b <;> decide

theorem wordB_eq_zero_or_one (b : Bool) : wordB b = 0#64 ∨ wordB b = 1#64 := by
  cases b
  · exact .inl rfl
  · exact .inr rfl

/-- Settles O42: the computed odd part is the only one, and a prime passes every witness. -/
theorem isprimeIsTheStrongProbablePrimeTest : Obligations.IsprimeIsTheStrongProbablePrimeTest := by
  refine ⟨decodesTo .isprime, fun n s => ?_⟩
  obtain ⟨t, hexec, hanswered⟩ := exec_answers (i := .isprime n) (s := s) rfl rfl
  exact ⟨t, _, hexec, hanswered, wordB_eq_zero_or_one _, (wordB_eq_one_iff _).trans (isPrimeValue_iff n.isLt),
    fun hprime => (wordB_eq_one_iff _).2 (isPrimeValue_of_prime hprime n.isLt)⟩

end Sys2Proof.Machine

/-! # Number-Theory Engine, integer utilities (44_integer_utils.md) -/

namespace Sys2Proof.Machine

/-! ## FACT and NCK -/

theorem factProduct_eq_foldl (n : Nat) :
    factProduct n = (List.range' 2 (n - 1)).foldl (fun r i => min (r * i) u64Max) 1 := by
  simp only [factProduct, List.bind_eq_flatMap, List.pure_def, ← List.map_eq_flatMap, List.foldl_map, satu_mul_natCast]

theorem factProduct_succ {n : Nat} (hn : 1 ≤ n) : factProduct (n + 1) = min (factProduct n * (n + 1)) u64Max := by
  have hrange : List.range' 2 (n + 1 - 1) = List.range' 2 (n - 1) ++ [n + 1] := by
    rw [show n + 1 - 1 = (n - 1) + 1 by omega, List.range'_concat]
    simp only [List.append_cancel_left_eq, List.cons.injEq, and_true]
    omega
  rw [factProduct_eq_foldl, hrange, List.foldl_append, List.foldl_cons, List.foldl_nil, ← factProduct_eq_foldl]

/-- As long as the factorial fits `u64`, no product on the way is clamped. -/
theorem factProduct_eq {n : Nat} (h : n.factorial ≤ u64Max) : factProduct n = n.factorial := by
  induction n with
  | zero => rfl
  | succ n ih =>
    obtain rfl | hn := n.eq_zero_or_pos
    · rfl
    · have hprev : n.factorial ≤ u64Max := (Nat.factorial_le n.le_succ).trans h
      rw [factProduct_succ hn, ih hprev, Nat.mul_comm, ← Nat.factorial_succ, Nat.min_eq_left h]

/-- Settles O45: `20!` fits `u64`. -/
theorem factIsTheFactorialUpTo20 : Obligations.FactIsTheFactorialUpTo20 := by
  refine ⟨decodesTo .fact, fun n s => exec_answers rfl ?_⟩
  by_cases hn : n.toNat ≤ 20
  · have hfits : n.toNat.factorial ≤ u64Max := (Nat.factorial_le hn).trans (by decide)
    rw [if_pos hn, factValue, if_neg (by omega), factProduct_eq hfits, optionWords_some, wordU]
  · rw [if_neg hn, factValue, if_pos (by omega), optionWords_none]

theorem nckRun_succ (n i : Nat) : nckRun n (i + 1) = min (nckRun n i * (n - i)) u64Max / (i + 1) := by
  rw [nckRun, satu_mul_natCast]

theorem nckRun_le (n i : Nat) : nckRun n i ≤ u64Max := by
  cases i with
  | zero => exact Nat.one_le_of_lt (by decide : 0 < u64Max)
  | succ i =>
    rw [nckRun_succ]
    exact (Nat.div_le_self _ _).trans (Nat.min_le_right _ _)

/-- Up to `n = 62` every product of the formula fits `u64`: the largest is `62 * choose 61 30`. -/
theorem choose_mul_sub_le {n : Nat} (hn : n ≤ 62) (i : Nat) : n.choose i * (n - i) ≤ u64Max := by
  cases n with
  | zero => simp
  | succ n =>
    have hmiddle : Nat.choose 61 30 = 232714176627630544 := by
      rw [Nat.choose_eq_descFactorial_div_factorial]
      decide
    calc (n + 1).choose i * (n + 1 - i) = n.choose i * (n + 1) := (Nat.choose_mul_succ_eq n i).symm
      _ ≤ Nat.choose 61 30 * 62 :=
        Nat.mul_le_mul ((Nat.choose_le_choose i (by omega)).trans (Nat.choose_le_middle i 61)) hn
      _ ≤ u64Max := by rw [hmiddle]; decide

theorem nckRun_eq_choose {n : Nat} (hn : n ≤ 62) (i : Nat) : nckRun n i = n.choose i := by
  induction i with
  | zero => rw [nckRun, Nat.choose_zero_right]
  | succ i ih =>
    rw [nckRun_succ, ih, Nat.min_eq_left (choose_mul_sub_le hn i), ← Nat.choose_succ_right_eq,
      Nat.mul_div_cancel _ i.succ_pos]

theorem nckValue_of_lt {n k : Nat} (h : n < k) : nckValue n k = 0 := if_pos h

theorem nckValue_of_le {n k : Nat} (h : k ≤ n) : nckValue n k = nckRun n (min k (n - k)) := by
  rw [nckValue, if_neg (Nat.not_lt.2 h), Nat.min_def]

theorem nckValue_eq_choose {n : Nat} (hn : n ≤ 62) (k : Nat) : nckValue n k = n.choose k := by
  obtain hlt | hle := Nat.lt_or_ge n k
  · rw [nckValue_of_lt hlt, Nat.choose_eq_zero_of_lt hlt]
  · rw [nckValue_of_le hle, nckRun_eq_choose hn, Nat.min_def]
    split
    · rfl
    · exact Nat.choose_symm hle

/-- Settles O46: the running values are `nckRun`. -/
theorem nckRunsTheMultiplicativeFormula : Obligations.NckRunsTheMultiplicativeFormula := by
  refine ⟨decodesTo .nck, fun n k s => ?_⟩
  obtain ⟨t, hexec, hanswered⟩ := exec_answers (i := .nck n k) (s := s) rfl rfl
  refine ⟨t, _, hexec, hanswered, ?_, fun hlt => nckValue_of_lt hlt,
    fun hle => ⟨nckRun n.toNat, rfl, nckValue_of_le hle, fun i _ => nckRun_succ _ _⟩, fun hn => nckValue_eq_choose hn _⟩
  obtain hlt | hle := Nat.lt_or_ge n.toNat k.toNat
  · rw [nckValue_of_lt hlt]
    exact Nat.zero_le _
  · rw [nckValue_of_le hle]
    exact nckRun_le _ _

/-! ## LOG2 and LOG10 -/

theorem toNat_ne_zero {n : U64} (h : n ≠ 0#64) : n.toNat ≠ 0 := fun h0 => h (BitVec.eq_of_toNat_eq h0)

/-- The bit at the binary logarithm is the highest one set. -/
theorem testBit_log2 {n : Nat} (h : n ≠ 0) : n.testBit (Nat.log2 n) = true := by
  have hlow := Nat.log2_self_le h
  have hhigh : n < 2 ^ (Nat.log2 n + 1) := Nat.lt_log2_self
  rw [pow_succ] at hhigh
  have hone : n / 2 ^ Nat.log2 n = 1 := Nat.div_eq_of_lt_le (by omega) (by omega)
  rw [Nat.testBit_eq_decide_div_mod_eq, hone]
  rfl

/-- Settles O47: `Nat.log2` is the index of the highest set bit. -/
theorem log2IsTheHighestSetBit : Obligations.Log2IsTheHighestSetBit := by
  refine ⟨decodesTo .log2, fun n s => ?_⟩
  by_cases hn : n = 0#64
  · subst hn
    obtain ⟨t, hexec, hanswered⟩ := exec_answers (i := .log2 0#64) (s := s) rfl rfl
    exact ⟨t, _, _, hexec, hanswered, fun _ => ⟨rfl, rfl⟩, fun h => absurd rfl h⟩
  · have hne := toNat_ne_zero hn
    obtain ⟨t, hexec, hanswered⟩ := exec_answers (i := .log2 n) (s := s) rfl
      (by rw [log2Value, if_neg hne, optionWords_some])
    have hle : Nat.log2 n.toNat ≤ 63 := Nat.le_of_lt_succ ((Nat.log2_lt hne).2 n.isLt)
    have hword : (wordU (Nat.log2 n.toNat)).toNat = Nat.log2 n.toNat := toNat_wordU (hle.trans (by decide))
    refine ⟨t, _, _, hexec, hanswered, fun h => absurd h hn, fun _ => ⟨rfl, ?_⟩⟩
    rw [hword]
    exact ⟨hle, Nat.log2_self_le hne, Nat.lt_log2_self, testBit_log2 hne⟩

/-- Dividing by 10 while two digits or more are left counts up to the decimal logarithm. -/
theorem log10Loop_eq {fuel n p : Nat} (hfuel : n ≤ fuel) : log10Loop fuel n p = p + Nat.log 10 n := by
  induction fuel generalizing n p with
  | zero =>
    obtain rfl : n = 0 := by omega
    rw [log10Loop, Nat.log_zero_right, Nat.add_zero]
  | succ fuel ih =>
    rw [log10Loop]
    split
    · next h => rw [ih (by omega), Nat.log_of_one_lt_of_le (by decide) h, Nat.add_assoc, Nat.add_comm 1]
    · next h => rw [Nat.log_of_lt (by omega), Nat.add_zero]

/-- Settles O48: the loop counts up to `Nat.log 10`, below 20 for a 64-bit number. -/
theorem log10IsTheDecimalFloor : Obligations.Log10IsTheDecimalFloor := by
  refine ⟨decodesTo .log10, fun n s => ?_⟩
  by_cases hn : n = 0#64
  · subst hn
    obtain ⟨t, hexec, hanswered⟩ := exec_answers (i := .log10 0#64) (s := s) rfl rfl
    exact ⟨t, _, _, hexec, hanswered, fun _ => ⟨rfl, rfl⟩, fun h => absurd rfl h⟩
  · have hne := toNat_ne_zero hn
    obtain ⟨t, hexec, hanswered⟩ := exec_answers (i := .log10 n) (s := s) rfl
      (by rw [log10Value, if_neg hne, log10Loop_eq le_rfl, Nat.zero_add, optionWords_some])
    have hle : Nat.log 10 n.toNat ≤ 19 :=
      Nat.le_of_lt_succ (Nat.log_lt_of_lt_pow hne (n.isLt.trans (by norm_num)))
    have hword : (wordU (Nat.log 10 n.toNat)).toNat = Nat.log 10 n.toNat := toNat_wordU (hle.trans (by decide))
    refine ⟨t, _, _, hexec, hanswered, fun h => absurd h hn, fun _ => ⟨rfl, ?_⟩⟩
    rw [hword]
    exact ⟨hle, Nat.pow_log_le_self 10 hne, Nat.lt_pow_succ_log_self (by decide) _⟩

/-! ## POPCNT and BITREV -/

/-- Counting in a range is the size of a filtered range. -/
theorem countP_range_eq_card (p : Nat → Bool) (n : Nat) :
    (List.range n).countP p = ((Finset.range n).filter fun i => p i = true).card := by
  rw [List.countP_eq_length_filter]
  simp [Finset.card, Finset.filter, Finset.range, Multiset.range]

theorem popcntValue_eq (n : U64) :
    popcntValue n = (Finset.univ.filter (fun i : Fin 64 => n.getLsbD i.val = true)).card := by
  rw [popcntValue, countP_range_eq_card, Finset.card_filter, Finset.card_filter,
    ← Fin.sum_univ_eq_sum_range fun i => if n.getLsbD i = true then 1 else 0]

/-- Settles O49: counting over a list of indices is the size of the set of indices. -/
theorem popcntCountsAndBitrevReverses : Obligations.PopcntCountsAndBitrevReverses := by
  refine ⟨decodesTo .popcnt, decodesTo .bitrev, fun n s => ⟨exec_answers rfl (by rw [popcntValue_eq, wordU]), ?_⟩⟩
  obtain ⟨t, hexec, hanswered⟩ := exec_answers (i := .bitrev n) (s := s) rfl rfl
  exact ⟨t, _, hexec, hanswered, fun i hi => by simp [bitrevValue, hi]⟩

/-! ## ROTL and ROTR -/

/-- A word moved up by `k`, with its upper bits put below: bit `i` is found `k` places on, around the 64 bits. -/
theorem testBit_rotated {x k i : Nat} (hx : x < 2 ^ 64) (hk : k < 64) (hi : i < 64) :
    (x * 2 ^ k % 2 ^ 64 + x / 2 ^ (64 - k)).testBit ((i + k) % 64) = x.testBit i := by
  have hsplit : 2 ^ 64 = 2 ^ k * 2 ^ (64 - k) := by rw [← pow_add, Nat.add_sub_cancel' hk.le]
  have hlow : x * 2 ^ k % 2 ^ 64 = 2 ^ k * (x % 2 ^ (64 - k)) := by rw [hsplit, Nat.mul_comm, Nat.mul_mod_mul_left]
  have hhigh : x / 2 ^ (64 - k) < 2 ^ k := Nat.div_lt_of_lt_mul (by rwa [Nat.mul_comm, ← hsplit])
  rw [hlow, Nat.testBit_two_pow_mul_add _ hhigh]
  obtain hup | hwrap := Nat.lt_or_ge (i + k) 64
  · rw [Nat.mod_eq_of_lt hup, if_neg (by omega), Nat.add_sub_cancel, Nat.testBit_mod_two_pow,
      decide_eq_true (by omega), Bool.true_and]
  · have hmod : (i + k) % 64 = i + k - 64 := by omega
    have hback : i + k - 64 + (64 - k) = i := by omega
    rw [hmod, if_pos (by omega), Nat.testBit_div_two_pow, hback]

/-- Rotating left by `n` moves bit `i` to `i + n` modulo 64. -/
theorem testBit_rotlValue {x : Nat} (hx : x < 2 ^ 64) (n : Nat) {i : Nat} (hi : i < 64) :
    (rotlValue x n).testBit ((i + n) % 64) = x.testBit i := by
  have hsum : (i + n) % 64 = (i + n % 64) % 64 := by omega
  have hrotated := testBit_rotated hx (Nat.mod_lt n (by decide)) hi
  rw [rotlValue, hsum]
  split
  · next h => rw [h, Nat.add_zero, Nat.mod_eq_of_lt hi]
  · exact hrotated

/-- A rotation to the right is the complementary rotation to the left. -/
theorem rotrValue_eq_rotlValue (x n : Nat) : rotrValue x n = rotlValue x (64 - n % 64) := by
  have hk : n % 64 < 64 := Nat.mod_lt n (by decide)
  rw [rotrValue, rotlValue]
  generalize n % 64 = k at hk
  obtain rfl | hpos := k.eq_zero_or_pos
  · simp only [Nat.sub_zero, Nat.mod_self, if_true]
  · have hmod : (64 - k) % 64 = 64 - k := by omega
    have hback : 64 - (64 - k) = k := by omega
    simp only [hmod, hback, if_neg hpos.ne', if_neg (show 64 - k ≠ 0 by omega), Nat.add_comm]

theorem getLsbD_wordU {v i : Nat} (hi : i < 64) : (wordU v).getLsbD i = v.testBit i := by
  rw [wordU, BitVec.getLsbD_ofNat, decide_eq_true hi, Bool.true_and]

/-- Settles O51: the right rotation is the complementary left one. -/
theorem rotatesMoveBitsAround : Obligations.RotatesMoveBitsAround := by
  refine ⟨decodesTo .rotl, decodesTo .rotr, fun x n s => ⟨?_, ?_⟩⟩
  · obtain ⟨t, hexec, hanswered⟩ := exec_answers (i := .rotl x n) (s := s) rfl rfl
    refine ⟨t, _, hexec, hanswered, fun i hi => ?_⟩
    rw [getLsbD_wordU (Nat.mod_lt _ (by decide)), testBit_rotlValue x.isLt _ hi]
    rfl
  · obtain ⟨t, hexec, hanswered⟩ := exec_answers (i := .rotr x n) (s := s) rfl rfl
    refine ⟨t, _, hexec, hanswered, fun i hi => ?_⟩
    have hsource : (i + n.toNat) % 64 < 64 := Nat.mod_lt _ (by decide)
    have hmoved := testBit_rotlValue x.isLt (64 - n.toNat % 64) hsource
    rw [show ((i + n.toNat) % 64 + (64 - n.toNat % 64)) % 64 = i by omega] at hmoved
    rw [getLsbD_wordU hi, rotrValue_eq_rotlValue, hmoved]
    rfl

/-! ## CTEQ -/

/-- An OR over a list is zero when every member is. -/
theorem foldl_or_eq_zero_iff (f : Nat → Byte) (js : List Nat) (acc : Byte) :
    js.foldl (fun acc j => acc ||| f j) acc = 0#8 ↔ acc = 0#8 ∧ ∀ j ∈ js, f j = 0#8 := by
  induction js generalizing acc with
  | nil => simp
  | cons j js ih => simp [ih, and_assoc]

/-- Words with the same eight bytes are the same. -/
theorem eq_of_byteOf_eq {a b : U64} (h : ∀ j, j < 8 → byteOf a j = byteOf b j) : a = b := by
  refine BitVec.eq_of_getLsbD_eq fun i hi => ?_
  have hbit := congrArg (BitVec.getLsbD · (i % 8)) (h (i / 8) (by omega))
  have hindex : 8 * (i / 8) + i % 8 = i := Nat.div_add_mod i 8
  simpa [byteOf, hindex, Nat.mod_lt i (show 0 < 8 by decide)] using hbit

theorem cteqAcc_eq_zero_iff (a b : U64) : cteqAcc a b = 0#8 ↔ a = b := by
  rw [cteqAcc, foldl_or_eq_zero_iff]
  constructor
  · rintro ⟨_, hbytes⟩
    exact eq_of_byteOf_eq fun j hj => BitVec.xor_eq_zero_iff.1 (hbytes j (List.mem_range.2 hj))
  · rintro rfl
    exact ⟨rfl, fun _ _ => BitVec.xor_self⟩

/-- Settles O52: the accumulated OR is zero exactly when all bytes agree. -/
theorem cteqIsEqualityOfThePayloads : Obligations.CteqIsEqualityOfThePayloads := by
  refine ⟨decodesTo .cteq, fun a b s => exec_answers rfl ?_⟩
  have hdecide : (cteqAcc a b == 0#8) = decide (a = b) := by
    rw [Bool.eq_iff_iff, beq_iff_eq, decide_eq_true_iff, cteqAcc_eq_zero_iff]
  rw [hdecide, wordB_decide]

/-! ## CLMUL -/

/-- Bit `k` of the XOR of shifted copies is the parity of the copies that have it. -/
theorem testBit_foldl_xor (a b k : Nat) (is : List Nat) (acc : Nat) :
    (is.foldl (fun acc i => if b.testBit i then acc ^^^ (a * 2 ^ i) else acc) acc).testBit k
      = (acc.testBit k ^^ decide (is.countP (fun i => b.testBit i && (a * 2 ^ i).testBit k) % 2 = 1)) := by
  induction is generalizing acc with
  | nil => simp
  | cons i is ih =>
    rw [List.foldl_cons, ih, List.countP_cons]
    generalize is.countP (fun i => b.testBit i && (a * 2 ^ i).testBit k) = c
    cases hb : b.testBit i with
    | false => simp
    | true =>
      cases ha : (a * 2 ^ i).testBit k with
      | false => simp [Nat.testBit_xor, ha]
      | true =>
        have hflip : decide ((c + 1) % 2 = 1) = !decide (c % 2 = 1) := by
          rw [← decide_not, decide_eq_decide]
          omega
        simp [Nat.testBit_xor, ha, hflip]

/-- Bit `k` of the carry-less product. -/
theorem testBit_clmulValue (a b : U64) (k : Nat) :
    (clmulValue a.toNat b.toNat).testBit k
      = decide ((List.range (k + 1)).countP (fun i => a.getLsbD (k - i) && b.getLsbD i) % 2 = 1) := by
  rw [clmulValue, testBit_foldl_xor, Nat.zero_testBit, Bool.false_xor, countP_range_eq_card, countP_range_eq_card]
  congr 4
  ext i
  simp only [Finset.mem_filter, Finset.mem_range, Nat.testBit_mul_two_pow, Bool.and_eq_true, decide_eq_true_eq,
    BitVec.getLsbD]
  constructor
  · rintro ⟨_, hb, hle, ha⟩
    exact ⟨by omega, ha, hb⟩
  · rintro ⟨hlt, ha, hb⟩
    have hi : i < 64 := by
      by_contra hge
      rw [Nat.testBit_lt_two_pow (b.isLt.trans_le (Nat.pow_le_pow_right (by decide) (by omega)))] at hb
      cases hb
    exact ⟨hi, hb, by omega, ha⟩

theorem getLsbD_wordU_low {v k : Nat} (hk : k < 64) : (wordU (v % 2 ^ 64)).getLsbD k = v.testBit k := by
  rw [getLsbD_wordU hk, Nat.testBit_mod_two_pow, decide_eq_true hk, Bool.true_and]

theorem getLsbD_wordU_high {v k : Nat} (hk : k < 64) : (wordU (v / 2 ^ 64)).getLsbD k = v.testBit (k + 64) := by
  rw [getLsbD_wordU hk, Nat.testBit_div_two_pow]

/-- The two result words are the two halves of the value. -/
theorem getLsbD_wordU_append {v k : Nat} (hk : k < 128) :
    (wordU (v / 2 ^ 64) ++ wordU (v % 2 ^ 64)).getLsbD k = v.testBit k := by
  rw [BitVec.getLsbD_append]
  by_cases h : k < 64
  · rw [if_pos h, getLsbD_wordU_low h]
  · rw [if_neg h, getLsbD_wordU_high (by omega), Nat.sub_add_cancel (by omega)]

/-- Settles O53: of two indices that add up to 127 one is at least 64. -/
theorem clmulIsTheCarrylessProduct : Obligations.ClmulIsTheCarrylessProduct := by
  refine ⟨decodesTo .clmul, fun a b s => ?_⟩
  obtain ⟨t, hexec, hanswered⟩ := exec_answers (i := .clmul a b) (s := s) rfl rfl
  refine ⟨t, _, _, hexec, hanswered, ?_, fun k hk => ?_⟩
  · have hnone : (List.range (127 + 1)).countP (fun i => a.getLsbD (127 - i) && b.getLsbD i) = 0 := by
      rw [List.countP_eq_zero]
      intro i _
      obtain hlt | hge := Nat.lt_or_ge i 64
      · simp [BitVec.getLsbD_of_ge a (127 - i) (by omega)]
      · simp [BitVec.getLsbD_of_ge b i hge]
    rw [getLsbD_wordU (by decide), Nat.testBit_div_two_pow, testBit_clmulValue, hnone]
    rfl
  · rw [getLsbD_wordU_append hk, testBit_clmulValue, decide_eq_true_iff]

end Sys2Proof.Machine

/-! # Stream Generator (46_stream_generator.md) -/

namespace Sys2Proof.Machine

/-- A xor-shift to the right loses nothing: the highest set bit stays. -/
theorem xor_ushiftRight_ne_zero {x : U64} (hx : x ≠ 0#64) {k : Nat} (hk : 0 < k) : x ^^^ x >>> k ≠ 0#64 := by
  intro h
  have hfix : x.toNat = x.toNat / 2 ^ k := by
    have := congrArg BitVec.toNat (BitVec.xor_eq_zero_iff.1 h)
    rwa [BitVec.toNat_ushiftRight, Nat.shiftRight_eq_div_pow] at this
  have hlt : x.toNat / 2 ^ k < x.toNat :=
    Nat.div_lt_self (Nat.pos_of_ne_zero (toNat_ne_zero hx)) (Nat.one_lt_two_pow hk.ne')
  omega

/-- An odd word cancels modulo 2^64. -/
theorem mul_ne_zero_of_odd {x c : U64} (hx : x ≠ 0#64) (hc : c.getLsbD 0 = true) : x * c ≠ 0#64 := by
  intro h
  have hodd : c.toNat % 2 = 1 := by simpa [BitVec.getLsbD, Nat.testBit_zero] using hc
  have hdvd : 2 ^ 64 ∣ x.toNat * c.toNat := by
    have := congrArg BitVec.toNat h
    rw [BitVec.toNat_mul] at this
    exact Nat.dvd_of_mod_eq_zero this
  have hcoprime : Nat.Coprime (2 ^ 64) c.toNat := Nat.Coprime.pow_left 64 (Nat.coprime_two_left.2 (Nat.odd_iff.2 hodd))
  exact toNat_ne_zero hx (Nat.eq_zero_of_dvd_of_lt (hcoprime.dvd_of_dvd_mul_right hdvd) x.isLt)

/-- A left shift by 25 multiplies by an odd number and adds the word. -/
theorem shiftLeft_25_eq (x : U64) : x <<< 25 = x * 33554431#64 + x := by
  rw [BitVec.shiftLeft_eq_mul_twoPow, show BitVec.twoPow 64 25 = 33554431#64 + 1#64 by decide, BitVec.mul_add,
    BitVec.mul_one]

/-- A xor-shift to the left by 25 loses nothing. -/
theorem xor_shiftLeft_ne_zero {x : U64} (hx : x ≠ 0#64) : x ^^^ x <<< 25 ≠ 0#64 := by
  intro h
  have hfix : x = x * 33554431#64 + x := (BitVec.xor_eq_zero_iff.1 h).trans (shiftLeft_25_eq x)
  exact mul_ne_zero_of_odd hx (by decide) (right_eq_add.1 hfix)

theorem xorShifts_ne_zero {x : U64} (hx : x ≠ 0#64) : xorShifts x ≠ 0#64 :=
  xor_ushiftRight_ne_zero (xor_shiftLeft_ne_zero (xor_ushiftRight_ne_zero hx (by decide))) (by decide)

/-- Settles O54: each xor-shift and an odd multiplier keep a word from becoming 0. -/
theorem rngShiftsMultipliesAndNeverAnswersZero : Obligations.RngShiftsMultipliesAndNeverAnswersZero := by
  refine ⟨decodesTo .rng, fun seed s => ?_⟩
  obtain ⟨t, hexec, hanswered⟩ := exec_answers (i := .rng seed) (s := s) rfl rfl
  refine ⟨t, _, hexec, hanswered, ⟨_, _, _, _, rfl, rfl, rfl, rfl, rfl⟩, fun hodd => ?_⟩
  have hseed : (if seed = 0#64 then 1#64 else seed) ≠ 0#64 := by
    split
    · decide
    · assumption
  exact mul_ne_zero_of_odd (xorShifts_ne_zero hseed) hodd

end Sys2Proof.Machine

/-! # PHI (44_integer_utils.md section 6)

The loop keeps `n = k * m` with `k` and `m` coprime and `res = φ(k) * m`, and every prime factor of `m` at least `p`. -/

namespace Sys2Proof.Machine

/-- Dividing out a factor leaves a number it does not divide. -/
theorem stripFactor_spec {p fuel m : Nat} (hp : 2 ≤ p) (hm : 0 < m) (hfuel : m ≤ fuel) :
    ¬p ∣ stripFactor p fuel m ∧ ∃ e, m = p ^ e * stripFactor p fuel m := by
  induction fuel generalizing m with
  | zero => omega
  | succ fuel ih =>
    rw [stripFactor]
    split
    · next h =>
      have hdvd : p ∣ m := Nat.dvd_of_mod_eq_zero h
      have hlt : m / p < m := Nat.div_lt_self hm hp
      obtain ⟨hnot, e, he⟩ := ih (Nat.div_pos (Nat.le_of_dvd hm hdvd) (by omega)) (by omega)
      refine ⟨hnot, e + 1, ?_⟩
      rw [pow_succ', Nat.mul_assoc, ← he, Nat.mul_div_cancel' hdvd]
    · next h => exact ⟨fun hdvd => h (Nat.mod_eq_zero_of_dvd hdvd), 0, by rw [pow_zero, Nat.one_mul]⟩

/-- What the trial division keeps, for the argument `n`. -/
structure PhiInv (n res m p : Nat) : Prop where
  pos : 0 < m
  two_le : 2 ≤ p
  le_factor : ∀ q, q.Prime → q ∣ m → p ≤ q
  split : ∃ k, n = k * m ∧ k.Coprime m ∧ res = k.totient * m

theorem PhiInv.initial {n : Nat} (hn : 0 < n) : PhiInv n n n 2 where
  pos := hn
  two_le := le_rfl
  le_factor := fun _ hq _ => hq.two_le
  split := ⟨1, (Nat.one_mul n).symm, Nat.coprime_one_left n, by rw [Nat.totient_one, Nat.one_mul]⟩

/-- A trial divisor that divides the rest is prime. -/
theorem PhiInv.prime {n res m p : Nat} (h : PhiInv n res m p) (hp : p ∣ m) : p.Prime := by
  have hfac : p.minFac.Prime := Nat.minFac_prime (by have := h.two_le; omega)
  have hle := h.le_factor _ hfac ((Nat.minFac_dvd p).trans hp)
  rwa [Nat.le_antisymm (Nat.minFac_le (by have := h.two_le; omega)) hle] at hfac

/-- When the rest is below the square of the trial divisor, it is 1 or prime. -/
theorem PhiInv.eq_one_or_prime {n res m p : Nat} (h : PhiInv n res m p) (hlt : m < p * p) : m = 1 ∨ m.Prime := by
  by_contra hcon
  obtain ⟨hne, hnot⟩ := not_or.1 hcon
  have hle := h.le_factor _ (Nat.minFac_prime hne) (Nat.minFac_dvd m)
  have hsq := Nat.minFac_sq_le_self h.pos hnot
  have hmul := Nat.mul_le_mul hle hle
  rw [pow_two] at hsq
  omega

/-- A trial divisor that does not divide the rest is passed over. -/
theorem PhiInv.skip {n res m p : Nat} (h : PhiInv n res m p) (hp : ¬p ∣ m) : PhiInv n res m (p + 1) where
  pos := h.pos
  two_le := h.two_le.trans p.le_succ
  le_factor := fun q hq hdvd => Nat.lt_of_le_of_ne (h.le_factor q hq hdvd) fun heq => hp (heq ▸ hdvd)
  split := h.split

/-- A trial divisor that divides the rest moves its whole power to the coprime part. -/
theorem PhiInv.strip {n res m p : Nat} (h : PhiInv n res m p) (hp : p ∣ m) :
    PhiInv n (res - res / p) (stripFactor p m m) (p + 1) ∧ stripFactor p m m ≤ m := by
  obtain ⟨hnot, e, he⟩ := stripFactor_spec h.two_le h.pos (le_refl m)
  obtain ⟨k, hk, hcoprime, hres⟩ := h.split
  have hprime := h.prime hp
  generalize stripFactor p m m = m' at hnot he
  have hdvd : m' ∣ m := Dvd.intro_left _ he.symm
  have hpos : 0 < m' := Nat.pos_of_dvd_of_pos hdvd h.pos
  have hpm' : (p ^ e).Coprime m' := Nat.Coprime.pow_left e ((Nat.Prime.coprime_iff_not_dvd hprime).2 hnot)
  have hkp : k.Coprime (p ^ e) := hcoprime.coprime_dvd_right (Dvd.intro _ he.symm)
  have hkm' : k.Coprime m' := hcoprime.coprime_dvd_right hdvd
  refine ⟨⟨hpos, h.two_le.trans p.le_succ, fun q hq hqm => ?_, k * p ^ e, ?_, ?_, ?_⟩, Nat.le_of_dvd h.pos hdvd⟩
  · exact Nat.lt_of_le_of_ne (h.le_factor q hq (hqm.trans hdvd)) fun heq => hnot (heq ▸ hqm)
  · rw [hk, he, Nat.mul_assoc]
  · exact Nat.Coprime.mul_left hkm' hpm'
  · obtain ⟨e, rfl⟩ : ∃ e', e = e' + 1 := by
      refine Nat.exists_eq_succ_of_ne_zero fun h0 => hnot ?_
      rw [h0, pow_zero, Nat.one_mul] at he
      rwa [← he]
    have hdiv : res = p * (k.totient * (p ^ e * m')) := by
      rw [hres, he, pow_succ]
      ring
    have hquot : res / p = k.totient * (p ^ e * m') := by rw [hdiv, Nat.mul_div_cancel_left _ hprime.pos]
    obtain ⟨j, rfl⟩ : ∃ j, p = j + 1 := ⟨p - 1, (Nat.sub_add_cancel hprime.one_le).symm⟩
    rw [hquot, hdiv, Nat.totient_mul hkp, Nat.totient_prime_pow_succ hprime, Nat.add_sub_cancel, Nat.add_one_mul,
      Nat.add_sub_cancel]
    ring

/-- With enough rounds the loop ends below the square of its trial divisor, its invariant kept. -/
theorem phiLoop_spec {n fuel res m p : Nat} (h : PhiInv n res m p) (hfuel : m ≤ fuel + p) :
    ∃ p', PhiInv n (phiLoop fuel res m p).1 (phiLoop fuel res m p).2 p' ∧ (phiLoop fuel res m p).2 < p' * p' := by
  induction fuel generalizing res m p with
  | zero =>
    have hp := h.two_le
    exact ⟨p, h, by rw [phiLoop]; nlinarith⟩
  | succ fuel ih =>
    rw [phiLoop]
    split
    · split
      · next hmod =>
        obtain ⟨hstrip, hle⟩ := h.strip (Nat.dvd_of_mod_eq_zero hmod)
        exact ih hstrip (by omega)
      · next hmod => exact ih (h.skip fun hdvd => hmod (Nat.mod_eq_zero_of_dvd hdvd)) (by omega)
    · next hlt => exact ⟨p, h, Nat.lt_of_not_le hlt⟩

theorem phiValue_eq_totient (n : Nat) : phiValue n = n.totient := by
  obtain rfl | hn := n.eq_zero_or_pos
  · rfl
  · obtain ⟨p, hinv, hlt⟩ := phiLoop_spec (.initial hn) (fuel := n) (by omega)
    rw [phiValue]
    generalize phiLoop n n n 2 = f at hinv hlt
    obtain ⟨k, hk, hcoprime, hres⟩ := hinv.split
    rw [hk, Nat.totient_mul hcoprime, hres]
    obtain hone | hprime := hinv.eq_one_or_prime hlt
    · rw [hone, Nat.totient_one, if_neg (by decide)]
    · rw [if_pos hprime.one_lt, Nat.mul_div_cancel _ hprime.pos, Nat.totient_prime hprime, Nat.mul_sub_one]

/-- Settles O50: the loop ends at the totient. -/
theorem phiIsEulersTotient : Obligations.PhiIsEulersTotient :=
  ⟨decodesTo .phi, fun _ _ => exec_answers rfl (by rw [phiValue_eq_totient, wordU])⟩

end Sys2Proof.Machine

/-! # Elliptic-Curve Engine (45_elliptic_curve.md)

The residue arithmetic is the arithmetic of `ZMod m`; the two formulas are stated there, and that they stay on the curve is a fact
about any commutative ring. -/

namespace Sys2Proof.Machine

/-! ## Residues -/

@[simp] theorem natCast_addm (m u v : Nat) : (addm m u v : ZMod m) = u + v := by
  simp [addm]

@[simp] theorem natCast_mulm (m u v : Nat) : (mulm m u v : ZMod m) = u * v := by
  simp [mulm, mulmod]

theorem natCast_subm {m : Nat} (hm : 0 < m) (u v : Nat) : (subm m u v : ZMod m) = u - v := by
  have hle : v % m ≤ u % m + m := (Nat.mod_lt v hm).le.trans (Nat.le_add_left _ _)
  rw [subm, ZMod.natCast_mod, Nat.cast_sub hle]
  simp

theorem subm_lt {m : Nat} (hm : 0 < m) (u v : Nat) : subm m u v < m := Nat.mod_lt _ hm

/-- `inv` gives the inverse of a unit and nothing for any other residue. -/
theorem invm_cases {m : Nat} (hm : 0 < m) (u : Nat) :
    (IsUnit (u : ZMod m) ∧ ∃ i, invm m u = some i ∧ (u : ZMod m) * i = 1)
    ∨ (¬IsUnit (u : ZMod m) ∧ invm m u = none) := by
  have hgcd : Nat.gcd (u % m) m = Nat.gcd u m := by rw [← Nat.gcd_rec, Nat.gcd_comm]
  rw [ZMod.isUnit_iff_coprime, Nat.Coprime, invm, ← hgcd]
  by_cases hone : Nat.gcd (u % m) m = 1
  · obtain ⟨i, hi, _, hinv⟩ := modinvValue_eq_some hm.ne' hone
    refine .inl ⟨hone, i, hi, ?_⟩
    have hcast := (ZMod.natCast_eq_natCast_iff _ _ m).2 hinv
    simpa using hcast
  · exact .inr ⟨hone, modinvValue_eq_none (.inr hone)⟩

theorem isUnit_two_mul_iff (m y : Nat) : IsUnit (2 * (y : ZMod m)) ↔ Nat.gcd (2 * y) m = 1 := by
  rw [← Nat.Coprime, ← ZMod.isUnit_iff_coprime]
  push_cast
  rfl

theorem isUnit_sub_iff (m u v : Nat) : IsUnit ((u : ZMod m) - v) ↔ Int.gcd ((u : Int) - v) m = 1 := by
  have hcast : (u : ZMod m) - v = (((u : Int) - v : Int) : ZMod m) := by push_cast; rfl
  rw [hcast, ZMod.coe_int_isUnit_iff_isCoprime, isCoprime_comm, Int.isCoprime_iff_gcd_eq_one]

/-! ## The formulas in a ring -/

/-- `lam` is the slope of the tangent at `(x, y)` and `(x3, y3)` the reflected third point on it. -/
def IsTangent {R : Type} [CommRing R] (a x y lam x3 y3 : R) : Prop :=
  lam * (2 * y) = 3 * x ^ 2 + a ∧ x3 = lam ^ 2 - 2 * x ∧ y3 = lam * (x - x3) - y

/-- `lam` is the slope of the secant through two points and `(x3, y3)` the reflected third point on it. -/
def IsSecant {R : Type} [CommRing R] (x1 y1 x2 y2 lam x3 y3 : R) : Prop :=
  lam * (x2 - x1) = y2 - y1 ∧ x3 = lam ^ 2 - x1 - x2 ∧ y3 = lam * (x1 - x3) - y1

/-- The cubic minus the squared tangent is `(X - x) ^ 2 * (X - x3)`. -/
theorem IsTangent.onCurve {R : Type} [CommRing R] {a b x y lam x3 y3 : R} (h : IsTangent a x y lam x3 y3)
    (hcurve : y ^ 2 = x ^ 3 + a * x + b) : y3 ^ 2 = x3 ^ 3 + a * x3 + b := by
  obtain ⟨hslope, hx, hy⟩ := h
  rw [hy]
  linear_combination (x3 - x) * hslope + hcurve - (x3 - x) ^ 2 * hx

/-- The cubic minus the squared secant is `(X - x1) * (X - x2) * (X - x3)`: its linear rest vanishes at two abscissas whose
difference is a unit. -/
theorem IsSecant.onCurve {R : Type} [CommRing R] {a b x1 y1 x2 y2 lam x3 y3 : R} (h : IsSecant x1 y1 x2 y2 lam x3 y3)
    (hunit : IsUnit (x2 - x1)) (hcurve1 : y1 ^ 2 = x1 ^ 3 + a * x1 + b) (hcurve2 : y2 ^ 2 = x2 ^ 3 + a * x2 + b) :
    y3 ^ 2 = x3 ^ 3 + a * x3 + b := by
  obtain ⟨hslope, hx, hy⟩ := h
  have hrest : a + 2 * lam ^ 2 * x1 - 2 * lam * y1 - (x1 * x2 + x1 * x3 + x2 * x3) = 0 := by
    rw [← hunit.mul_right_eq_zero]
    linear_combination hcurve1 - hcurve2 - (lam * (x2 - x1) + y1 + y2) * hslope - (x2 - x1) * (x1 + x2) * hx
  rw [hy]
  linear_combination hcurve1 - (x3 - x1) * hrest - (x3 - x1) * (x3 + x1) * hx

/-! ## The values of PDBL and PADD -/

/-- A point of two residues modulo a 64-bit number holds those residues. -/
theorem residuePoint_eq {m x y : Nat} (hm : m < 2 ^ 64) (hx : x < m) (hy : y < m) :
    ∃ q r : U64, residuePoint x y = .coord q r ∧ q.toNat = x ∧ r.toNat = y :=
  ⟨_, _, rfl, Nat.mod_eq_of_lt (hx.trans hm), Nat.mod_eq_of_lt (hy.trans hm)⟩

/-- The tangent formulas, given the inverse of `2y`. -/
theorem tangentPoint_spec {x y a m i : Nat} (hm : 0 < m) (hlt : m < 2 ^ 64) (hi : 2 * (y : ZMod m) * i = 1) :
    ∃ q r : U64, tangentPoint x y a m i = .coord q r ∧ q.toNat < m ∧ r.toNat < m
      ∧ ∃ lam : ZMod m, IsTangent (a : ZMod m) x y lam q.toNat r.toNat := by
  rw [tangentPoint]
  obtain ⟨q, r, hpoint, hq, hr⟩ := residuePoint_eq hlt (subm_lt hm _ _) (subm_lt hm _ _)
  refine ⟨q, r, hpoint, hq ▸ subm_lt hm _ _, hr ▸ subm_lt hm _ _, (3 * (x : ZMod m) ^ 2 + a) * i, ?_, ?_, ?_⟩
  · linear_combination (3 * (x : ZMod m) ^ 2 + a) * hi
  · rw [hq, natCast_subm hm]
    push_cast [natCast_mulm, natCast_addm]
    ring
  · rw [hr, hq, natCast_subm hm, natCast_mulm, natCast_subm hm]
    push_cast [natCast_mulm, natCast_addm]
    ring

/-- The secant formulas, given the inverse of `x2 - x1`. -/
theorem secantPoint_spec {x1 y1 x2 y2 m i : Nat} (hm : 0 < m) (hlt : m < 2 ^ 64) (hi : ((x2 : ZMod m) - x1) * i = 1) :
    ∃ q r : U64, secantPoint x1 y1 x2 y2 m i = .coord q r ∧ q.toNat < m ∧ r.toNat < m
      ∧ ∃ lam : ZMod m, IsSecant (x1 : ZMod m) y1 x2 y2 lam q.toNat r.toNat := by
  rw [secantPoint]
  obtain ⟨q, r, hpoint, hq, hr⟩ := residuePoint_eq hlt (subm_lt hm _ _) (subm_lt hm _ _)
  refine ⟨q, r, hpoint, hq ▸ subm_lt hm _ _, hr ▸ subm_lt hm _ _, ((y2 : ZMod m) - y1) * i, ?_, ?_, ?_⟩
  · linear_combination ((y2 : ZMod m) - y1) * hi
  · rw [hq, natCast_subm hm, natCast_subm hm, natCast_mulm, natCast_mulm, natCast_subm hm]
    ring
  · rw [hr, hq, natCast_subm hm, natCast_mulm, natCast_mulm, natCast_subm hm, natCast_subm hm]

theorem pdblValue_eq_infinity {y : U64} {m : Nat} (h : y.toNat = 0 ∨ m = 0) (x : U64) (a : Nat) :
    pdblValue (.coord x y) a m = some .infinity := if_pos h

/-- `PDBL` of a finite point past the cases that give `Infinity`. -/
theorem pdblValue_cases {y : U64} {m : Nat} (h : ¬(y.toNat = 0 ∨ m = 0)) (hlt : m < 2 ^ 64) (x : U64) (a : Nat) :
    (Nat.gcd (2 * y.toNat) m ≠ 1 ∧ pdblValue (.coord x y) a m = none)
    ∨ (Nat.gcd (2 * y.toNat) m = 1
        ∧ ∃ q r : U64, pdblValue (.coord x y) a m = some (.coord q r) ∧ q.toNat < m ∧ r.toNat < m
        ∧ ∃ lam : ZMod m, IsTangent (a : ZMod m) x.toNat y.toNat lam q.toNat r.toNat) := by
  have hm : 0 < m := by omega
  rw [ne_eq, ← isUnit_two_mul_iff, pdblValue, if_neg h]
  have hcast : (addm m y.toNat y.toNat : ZMod m) = 2 * y.toNat := by rw [natCast_addm, two_mul]
  obtain ⟨hunit, i, hi, hinv⟩ | ⟨hunit, hi⟩ := invm_cases hm (addm m y.toNat y.toNat)
  · rw [hcast] at hunit hinv
    obtain ⟨q, r, hpoint, hrest⟩ := tangentPoint_spec (x := x.toNat) (a := a) hm hlt hinv
    exact .inr ⟨hunit, q, r, by simp only [hi, hpoint], hrest⟩
  · rw [hcast] at hunit
    exact .inl ⟨hunit, by simp only [hi]⟩

theorem paddValue_infinity_left (q : Point) (a m : Nat) : paddValue .infinity q a m = some q := rfl

theorem paddValue_infinity_right (p : Point) (a m : Nat) : paddValue p .infinity a m = some p := by
  cases p <;> rfl

theorem paddValue_same (x y : U64) (a m : Nat) :
    paddValue (.coord x y) (.coord x y) a m = pdblValue (.coord x y) a m := by
  rw [paddValue, if_pos rfl, if_pos rfl]

theorem paddValue_opposite (x : U64) {y1 y2 : U64} (h : y1 ≠ y2) (a m : Nat) :
    paddValue (.coord x y1) (.coord x y2) a m = some .infinity := by
  rw [paddValue, if_pos rfl, if_neg h]

/-- `PADD` of finite points with different `x`. -/
theorem paddValue_cases {x1 x2 : U64} {m : Nat} (hx : x1 ≠ x2) (hlt : m < 2 ^ 64) (y1 y2 : U64) (a : Nat) :
    ((m = 0 ∨ Int.gcd ((x2.toNat : Int) - x1.toNat) m ≠ 1) ∧ paddValue (.coord x1 y1) (.coord x2 y2) a m = none)
    ∨ (m ≠ 0 ∧ Int.gcd ((x2.toNat : Int) - x1.toNat) m = 1
        ∧ ∃ q r : U64, paddValue (.coord x1 y1) (.coord x2 y2) a m = some (.coord q r) ∧ q.toNat < m ∧ r.toNat < m
        ∧ ∃ lam : ZMod m, IsSecant (x1.toNat : ZMod m) y1.toNat x2.toNat y2.toNat lam q.toNat r.toNat) := by
  rw [ne_eq, ← isUnit_sub_iff, paddValue, if_neg hx]
  by_cases h0 : m = 0
  · exact .inl ⟨.inl h0, if_pos h0⟩
  have hm : 0 < m := Nat.pos_of_ne_zero h0
  rw [if_neg h0]
  have hcast := natCast_subm hm x2.toNat x1.toNat
  obtain ⟨hunit, i, hi, hinv⟩ | ⟨hunit, hi⟩ := invm_cases hm (subm m x2.toNat x1.toNat)
  · rw [hcast] at hunit hinv
    obtain ⟨q, r, hpoint, hrest⟩ := secantPoint_spec (y1 := y1.toNat) (y2 := y2.toNat) hm hlt hinv
    exact .inr ⟨h0, hunit, q, r, by simp only [hi, hpoint], hrest⟩
  · rw [hcast] at hunit
    exact .inl ⟨.inr hunit, by simp only [hi]⟩

/-! ## The statements -/

theorem toNat_eq_zero_iff (w : U64) : w.toNat = 0 ↔ w = 0#64 := by
  rw [← BitVec.toNat_inj]
  rfl

theorem pointWords_coord (x y : U64) : pointWords (some (.coord x y)) = [1#64, x, y] := rfl

/-- Settles O55: the tangent formulas hold in `ZMod m`, where `2y` is a unit exactly when the inverse is found. -/
theorem pdblFollowsTheTangent : Obligations.PdblFollowsTheTangent := by
  refine ⟨decodesTo .pdbl, fun a m s => exec_answers rfl rfl, fun x y a m s => ?_⟩
  by_cases h : y.toNat = 0 ∨ m.toNat = 0
  · obtain ⟨t, hexec, hanswered⟩ := exec_answers (i := .pdbl (.coord x y) a m) (s := s)
      (ws' := [1#64, u64Ones, u64Ones]) rfl (by rw [pdblValue_eq_infinity h]; rfl)
    simp only [toNat_eq_zero_iff] at h
    exact ⟨t, _, _, _, hexec, hanswered, fun _ => ⟨rfl, rfl, rfl⟩, fun h' => by tauto, fun h' => by tauto⟩
  · obtain ⟨hgcd, hvalue⟩ | ⟨hgcd, q, r, hvalue, hq, hr, lam, htangent⟩ := pdblValue_cases h m.isLt x a.toNat
    · obtain ⟨t, hexec, hanswered⟩ := exec_answers (i := .pdbl (.coord x y) a m) (s := s)
        (ws' := [0#64, 0#64, 0#64]) rfl (by rw [hvalue]; rfl)
      simp only [toNat_eq_zero_iff] at h
      exact ⟨t, _, _, _, hexec, hanswered, fun h' => absurd h' h, fun _ _ => ⟨rfl, rfl, rfl⟩,
        fun _ hgcd' => absurd hgcd' hgcd⟩
    · obtain ⟨t, hexec, hanswered⟩ := exec_answers (i := .pdbl (.coord x y) a m) (s := s) rfl
        (by rw [hvalue, pointWords_coord])
      simp only [toNat_eq_zero_iff] at h
      exact ⟨t, _, _, _, hexec, hanswered, fun h' => absurd h' h, fun _ hgcd' => absurd hgcd hgcd',
        fun _ _ => ⟨rfl, hq, hr, lam, htangent⟩⟩

/-- Settles O56: the secant formulas hold in `ZMod m`, where `x2 - x1` is a unit exactly when the inverse is found. -/
theorem paddFollowsTheSecant : Obligations.PaddFollowsTheSecant := by
  refine ⟨decodesTo .padd,
    fun q a m s => ⟨exec_answers rfl (by rw [paddValue_infinity_left]; rfl),
      exec_answers rfl (by rw [paddValue_infinity_right]; rfl)⟩,
    fun x y a m s => ?_, fun x y1 y2 a m s hy => exec_answers rfl (by rw [paddValue_opposite x hy]; rfl),
    fun x1 y1 x2 y2 a m s hx => ?_⟩
  · have hvalue := paddValue_same x y a.toNat m.toNat
    rw [exec, exec, execPadd, execPdbl, hvalue]
  · obtain ⟨hnone, hvalue⟩ | ⟨h0, hgcd, q, r, hvalue, hq, hr, lam, hsecant⟩ := paddValue_cases hx m.isLt y1 y2 a.toNat
    · obtain ⟨t, hexec, hanswered⟩ := exec_answers (i := .padd (.coord x1 y1) (.coord x2 y2) a m) (s := s)
        (ws' := [0#64, 0#64, 0#64]) rfl (by rw [hvalue]; rfl)
      rw [toNat_eq_zero_iff] at hnone
      exact ⟨t, _, _, _, hexec, hanswered, fun _ => ⟨rfl, rfl, rfl⟩,
        fun ⟨h0, hgcd⟩ => absurd hgcd (hnone.resolve_left h0)⟩
    · obtain ⟨t, hexec, hanswered⟩ := exec_answers (i := .padd (.coord x1 y1) (.coord x2 y2) a m) (s := s) rfl
        (by rw [hvalue, pointWords_coord])
      rw [Ne, toNat_eq_zero_iff] at h0
      exact ⟨t, _, _, _, hexec, hanswered, fun h' => absurd hgcd (h'.resolve_left h0),
        fun _ => ⟨rfl, hq, hr, lam, hsecant⟩⟩

/-- Whatever point `PDBL` answers for a point of the curve lies on it. -/
theorem pdblValue_onCurve {m : Nat} (hlt : m < 2 ^ 64) {a : Nat} {b : ZMod m} {p v : Point}
    (hp : PointOnCurve m (a : ZMod m) b p) (hv : pdblValue p a m = some v) : PointOnCurve m (a : ZMod m) b v := by
  cases p with
  | infinity =>
    cases hv
    trivial
  | coord x y =>
    by_cases h : y.toNat = 0 ∨ m = 0
    · cases (pdblValue_eq_infinity h x a).symm.trans hv
      trivial
    · obtain ⟨_, hvalue⟩ | ⟨_, q, r, hvalue, _, _, lam, htangent⟩ := pdblValue_cases h hlt x a
      · cases hvalue.symm.trans hv
      · cases hvalue.symm.trans hv
        exact htangent.onCurve hp

/-- Whatever point `PADD` answers for two points of the curve lies on it. -/
theorem paddValue_onCurve {m : Nat} (hlt : m < 2 ^ 64) {a : Nat} {b : ZMod m} {p q v : Point}
    (hp : PointOnCurve m (a : ZMod m) b p) (hq : PointOnCurve m (a : ZMod m) b q) (hv : paddValue p q a m = some v) :
    PointOnCurve m (a : ZMod m) b v := by
  cases p with
  | infinity =>
    cases hv
    exact hq
  | coord x1 y1 =>
    cases q with
    | infinity =>
      cases hv
      exact hp
    | coord x2 y2 =>
      by_cases hx : x1 = x2
      · subst hx
        by_cases hy : y1 = y2
        · subst hy
          rw [paddValue_same] at hv
          exact pdblValue_onCurve hlt hp hv
        · cases (paddValue_opposite x1 hy a m).symm.trans hv
          trivial
      · obtain ⟨_, hvalue⟩ | ⟨_, hgcd, _, _, hvalue, _, _, lam, hsecant⟩ := paddValue_cases hx hlt y1 y2 a
        · cases hvalue.symm.trans hv
        · cases hvalue.symm.trans hv
          exact hsecant.onCurve ((isUnit_sub_iff m _ _).2 hgcd) hp hq

/-- Settles O57: the answered point is the reflected third point of a tangent or a secant. -/
theorem curveOperationsStayOnTheCurve : Obligations.CurveOperationsStayOnTheCurve := by
  intro p q a m b s hp
  refine ⟨?_, fun hq => ?_⟩
  · obtain ⟨t, hexec, hanswered⟩ := exec_answers (i := .pdbl p a m) (s := s) rfl rfl
    exact ⟨t, _, hexec, hanswered, fun v hv => pdblValue_onCurve m.isLt hp hv⟩
  · obtain ⟨t, hexec, hanswered⟩ := exec_answers (i := .padd p q a m) (s := s) rfl rfl
    exact ⟨t, _, hexec, hanswered, fun v hv => paddValue_onCurve m.isLt hp hq hv⟩

end Sys2Proof.Machine
